-- ==== Sys2Proof/Word.lean ====
section
/-! DEFINITION. The words of the TimeCodec block's ports (30_encoding.md R60 to R64, R69), and the small plain types
the spec names beside them: the interrupt lines (R120), the agents (R20), a calendar time in unbounded integers (R8). -/

namespace Sys2Proof

/-- One byte of a RegisterBlock (R41). -/
abbrev Byte := BitVec 8

/-- The T bus: a calendar time in 56 bits (R61). -/
abbrev TBus := BitVec 56

/-- The B bus: a RegisterBlock in 56 bits (R62). -/
abbrev BBus := BitVec 56

/-- The D bus: one 16-bit scalar (R63). -/
abbrev DBus := BitVec 16

/-- A command word on the CMD port (R64). -/
abbrev CmdWord := BitVec 8

/-- The vector of the interrupt inputs `irq[2:0]` (R69). -/
abbrev IrqVector := BitVec 3

/-- An event word of the event queue (R122). -/
abbrev EventWord := BitVec 16

/-- The three interrupt lines (R120). -/
inductive Line where
  | alarm
  | tickSecond
  | tickPeriodic
  deriving DecidableEq, Repr

/-- The four agents that take steps in the block (R20). -/
inductive Agent where
  | cmd
  | irq (l : Line)
  deriving DecidableEq, Repr

/-- What an agent presents to the decoder: a command word on CMD, or a pattern of pulses on `irq[2:0]`. -/
inductive PortWord where
  | command (w : CmdWord)
  | pulses (p : IrqVector)
  deriving DecidableEq, Repr

/-- A calendar time as the calendar rules compute with it: unbounded integers (R8, R103). -/
structure CalTime where
  year   : Nat
  month  : Nat
  day    : Nat
  hour   : Nat
  minute : Nat
  second : Nat
  deriving DecidableEq, Repr

end Sys2Proof
end

