-- ==== Sys2Proof/Config.lean ====
section
/-! DEFINITION. The implementation parameters of 00_scope.md R5, and the free values of the model. -/

namespace Sys2Proof

/-- The parameters an implementation fixes (R5). `MASK[0]` is 0xFF in every implementation (R6) and is no field.
DESIGN CHOICE (log 1): a parameter set is carried in `State`, where no step writes it, because a step is a function of the
state alone; a statement about every state is thereby one about every choice of parameters. -/
structure Config where
  /-- `MASK[1]`, the field mask of the year-high byte. -/
  maskYearHigh : Byte
  /-- `MASK[2]`. -/
  maskMonth : Byte
  /-- `MASK[3]`. -/
  maskDay : Byte
  /-- `MASK[4]`. -/
  maskHour : Byte
  /-- `MASK[5]`. -/
  maskMinute : Byte
  /-- `MASK[6]`. -/
  maskSecond : Byte
  /-- `YEAR_MAX`, the greatest valid calendar year. -/
  yearMax : Nat
  /-- `EVQ_DEPTH`; `none` is unbounded. -/
  evqDepth : Option Nat
  /-- `EV_COALESCE`. -/
  evCoalesce : Bool
  deriving DecidableEq, Repr

/-- The default value of every parameter, as R5 gives them. -/
def Config.default : Config where
  maskYearHigh := 0xFF
  maskMonth := 0x0F
  maskDay := 0x1F
  maskHour := 0x1F
  maskMinute := 0x3F
  maskSecond := 0x3F
  yearMax := 65535
  evqDepth := none
  evCoalesce := false

/-- FREE VALUE (log 3). Which of the agents presented together takes its step next: the spec fixes no order (R48, R49, R69).
The argument is the count of choices drawn so far. -/
opaque Config.freeChoice : Nat → Nat

/-- FREE VALUE (log 11). `days_in_month` of a month outside 1 to 12, which R102 calls undefined. -/
opaque Config.freeMonthLength : Nat → Nat → Nat

end Sys2Proof
end

