-- ==== Sys2Proof/Machine/Calendar.lean ====
section
/-! DEFINITION. The calendar of 41_alarm_adjuster.md: leap years, month lengths, valid times (R101 to R103), the linear time
axis (R104, R105), and the field-wise carry and borrow chains (R108, R109), which R108 says a model may use. -/

namespace Sys2Proof.Machine

/-- `YEAR_MIN` (R5). -/
def yearMin : Nat := 1900

/-- `is_leap(y)` (R101). -/
def isLeap (y : Nat) : Bool := (y % 4 == 0 && y % 100 != 0) || y % 400 == 0

/-- `days_in_month(y, m)` (R102); undefined for `m` outside 1 to 12, and no rule calls it with one (log 11). -/
def daysInMonth (y m : Nat) : Nat :=
  match m with
  | 1 | 3 | 5 | 7 | 8 | 10 | 12 => 31
  | 4 | 6 | 9 | 11 => 30
  | 2 => if isLeap y then 29 else 28
  | _ => Config.freeMonthLength y m

/-- The number of days of a year, as R104 sums it. -/
def daysInYear (y : Nat) : Nat := if isLeap y then 366 else 365

/-- `valid_time(t)` (R103). The month is checked before `days_in_month` is asked for its length. -/
def validTime (yearMax : Nat) (t : CalTime) : Bool :=
  (decide (yearMin ≤ t.year) && decide (t.year ≤ yearMax))
    && (decide (1 ≤ t.month) && decide (t.month ≤ 12))
    && (decide (1 ≤ t.day) && decide (t.day ≤ daysInMonth t.year t.month))
    && decide (t.hour ≤ 23) && decide (t.minute ≤ 59) && decide (t.second ≤ 59)

/-- The days of the first `n` years from `YEAR_MIN` (R104's first sum). -/
def daysOfYears : Nat → Nat
  | 0 => 0
  | n + 1 => daysOfYears n + daysInYear (yearMin + n)

/-- The days of the first `n` months of year `y` (R104's second sum). -/
def daysOfMonths (y : Nat) : Nat → Nat
  | 0 => 0
  | n + 1 => daysOfMonths y n + daysInMonth y (n + 1)

/-- `days(t)` (R104). -/
def daysOf (t : CalTime) : Nat := daysOfYears (t.year - yearMin) + daysOfMonths t.year (t.month - 1) + (t.day - 1)

/-- `to_secs(t)` (R104). -/
def toSecs (t : CalTime) : Nat := 86400 * daysOf t + 3600 * t.hour + 60 * t.minute + t.second

/-- The first second of the calendar, YEAR_MIN-01-01T00:00:00. -/
def firstTime : CalTime := { year := yearMin, month := 1, day := 1, hour := 0, minute := 0, second := 0 }

/-- The last second of the calendar, YEAR_MAX-12-31T23:59:59. -/
def lastTime (yearMax : Nat) : CalTime :=
  { year := yearMax, month := 12, day := 31, hour := 23, minute := 59, second := 59 }

/-- `N_MAX` (R105). -/
def nMax (yearMax : Nat) : Nat := toSecs (lastTime yearMax)

/-- The year that holds day `d`, counted from the first day of year `y`, and the day within it. -/
def splitYears : Nat → Nat → Nat → Nat × Nat
  | 0, y, d => (y, d)
  | fuel + 1, y, d => if d < daysInYear y then (y, d) else splitYears fuel (y + 1) (d - daysInYear y)

/-- The month of year `y` that holds day `d`, counted from the first day of month `m`, and the day within it. -/
def splitMonths (y : Nat) : Nat → Nat → Nat → Nat × Nat
  | 0, m, d => (m, d)
  | fuel + 1, m, d => if d < daysInMonth y m then (m, d) else splitMonths y fuel (m + 1) (d - daysInMonth y m)

/-- `from_secs(n)` (R105): the time at second `n` of the axis. -/
def fromSecs (n : Nat) : CalTime :=
  let yd := splitYears (n / 86400 / 365) yearMin (n / 86400)
  let md := splitMonths yd.1 11 1 yd.2
  { year := yd.1, month := md.1, day := md.2 + 1,
    hour := n % 86400 / 3600, minute := n % 3600 / 60, second := n % 60 }

/-- The day after, with the carries of R108 from the day on. -/
def nextDay (y mo d h mi s : Nat) : CalTime :=
  if d + 1 ≤ daysInMonth y mo then { year := y, month := mo, day := d + 1, hour := h, minute := mi, second := s }
  else if mo + 1 ≤ 12 then { year := y, month := mo + 1, day := 1, hour := h, minute := mi, second := s }
  else { year := y + 1, month := 1, day := 1, hour := h, minute := mi, second := s }

/-- One second later, by the carry chain of R108. -/
def carrySecond (t : CalTime) : CalTime :=
  if t.second + 1 < 60 then { t with second := t.second + 1 }
  else if t.minute + 1 < 60 then { t with minute := t.minute + 1, second := 0 }
  else if t.hour + 1 < 24 then { t with hour := t.hour + 1, minute := 0, second := 0 }
  else nextDay t.year t.month t.day 0 0 0

/-- The day before, with the borrows of R109 from the day on. -/
def prevDay (y mo d h mi s : Nat) : CalTime :=
  if 1 < d then { year := y, month := mo, day := d - 1, hour := h, minute := mi, second := s }
  else if 1 < mo then
    { year := y, month := mo - 1, day := daysInMonth y (mo - 1), hour := h, minute := mi, second := s }
  else { year := y - 1, month := 12, day := daysInMonth (y - 1) 12, hour := h, minute := mi, second := s }

/-- One second earlier, by the borrow chain of R109. -/
def borrowSecond (t : CalTime) : CalTime :=
  if 0 < t.second then { t with second := t.second - 1 }
  else if 0 < t.minute then { t with minute := t.minute - 1, second := 59 }
  else if 0 < t.hour then { t with hour := t.hour - 1, minute := 59, second := 59 }
  else prevDay t.year t.month t.day 23 59 59

end Sys2Proof.Machine
end

