-- ==== Sys2Proof/Machine/State.lean ====
section
/-! DEFINITION. The state of the block (10_state.md R21), the ports beside it (30_encoding.md R60), and the reasons for which a
step can stop. Plain data throughout. -/

namespace Sys2Proof.Machine

/-- The fault codes of 60_exceptions.md R162. -/
inductive FaultCode where
  /-- F_ADJ_DOMAIN: ADVANCE or RETREAT of a T_IN that is no valid time. -/
  | adjDomain
  /-- F_ADJ_RANGE: ADVANCE or RETREAT whose result lies outside the years of the calendar. -/
  | adjRange
  /-- F_RATE_RANGE: SETRATE of 0 or of more than `TICK_BASE`. -/
  | rateRange
  /-- F_RATE_UNSET: GETRATE while PTICKS was never written. -/
  | rateUnset
  /-- F_EVQ_OVERFLOW: a delivery to a full event queue. -/
  | evqOverflow
  deriving DecidableEq, Repr

/-- The values of STATUS that the block drives (R160); no other code is ever driven. -/
inductive Status where
  | ok
  | unsupported
  | faulted (c : FaultCode)
  deriving DecidableEq, Repr

/-- The response of one command: STATUS and the output buses, `none` where a bus holds no value (R25, R30). -/
structure Response where
  status : Status
  tOut   : Option TBus
  bOut   : Option BBus
  dOut   : Option DBus
  deriving DecidableEq, Repr

/-- The operand buses as a command samples them (R23). -/
structure Buses where
  tIn : TBus
  bIn : BBus
  dIn : DBus
  deriving DecidableEq, Repr

/-- One sample of the input ports (R60): what the outside world presents together. -/
structure InPorts where
  rst      : Bool
  cmdValid : Bool
  cmd      : CmdWord
  buses    : Buses
  irq      : IrqVector
  deriving DecidableEq, Repr

/-- The machine. The first four fields are the block's state, which R21 says is all of it; the others are the ports and
parameters a step needs, held here because a step is a function of the state alone. -/
structure State where
  /-- ACTIVE, the per-line enables (R26). -/
  active : BitVec 3
  /-- PTICKS, the tick divisor; `none` is "never written" (R27). -/
  pticks : Option (BitVec 16)
  /-- EVQ, the event queue, head first (R29). -/
  evq : List EventWord
  /-- FAULT, the sticky fault (R28). -/
  fault : Option FaultCode
  /-- The output ports after the last step: `none` when it answered nothing (R25, R30). Not block state (log 4). -/
  resp : Option Response
  /-- The operand buses as the executing command samples them (R23). Not block state (log 8). -/
  bus : Buses
  /-- The port samples the outside world has still to present, in order. The model's own field (log 2). -/
  inputs : List InPorts
  /-- How many free choices have been drawn. The model's own field (log 9). -/
  draws : Nat
  /-- The implementation's parameters (R5). No step writes them (log 1). -/
  cfg : Config
  deriving DecidableEq, Repr

/-- Why the machine stops with a fault. The spec's own faults are next states that set FAULT (R163), not these. -/
inductive Fault where
  /-- FAULT holds `c`, so no agent has a step (R164). Raised by every meaning in such a state, and by the machine's `step` in
  one to which no `rst` is presented: the fault outcome that refutes a claim about the run. Safe: the hardware takes no step
  either. -/
  | noStep (c : FaultCode)
  /-- Raised by GETRATE when PTICKS holds 0, which no SETRATE writes (R146, R147) and no run reaches. Safe: the spec gives
  the division no result. -/
  | zeroDivisor
  deriving DecidableEq, Repr

/-- Why the machine refuses. -/
inductive Refusal where
  /-- Raised by an arm of `exec` whose instruction has no meaning yet; no arm is such. Safe. -/
  | notModelled (mnemonic : String)
  /-- Raised by `step` when the parameters break the bounds of R6: "a parameter choice that breaks these bounds is
  refused". Safe: there is no such block (log 14). -/
  | badParameters
  deriving DecidableEq, Repr

/-- The machine right after reset (R33), with the default parameters (R5), nothing on the ports and nothing presented. -/
def State.reset : State where
  active := 0b000
  pticks := none
  evq := []
  fault := none
  resp := none
  bus := { tIn := 0, bIn := 0, dIn := 0 }
  inputs := []
  draws := 0
  cfg := Config.default

end Sys2Proof.Machine
end

