-- ==== Sys2Proof/Machine/Operands.lean ====
section
/-! DEFINITION. The operand forms: the layouts of the T, B and D buses (30_encoding.md R61 to R63), the field masks
(00_scope.md R5, R6) and the lines' bits and event words (10_state.md R26, 42_dispatcher.md R120, R122). -/

namespace Sys2Proof.Machine

/-- `T[15:0]`, the year (R61). -/
def tYear (t : TBus) : BitVec 16 := t.extractLsb' 0 16

/-- `T[23:16]`, the month. -/
def tMonth (t : TBus) : Byte := t.extractLsb' 16 8

/-- `T[31:24]`, the day. -/
def tDay (t : TBus) : Byte := t.extractLsb' 24 8

/-- `T[39:32]`, the hour. -/
def tHour (t : TBus) : Byte := t.extractLsb' 32 8

/-- `T[47:40]`, the minute. -/
def tMinute (t : TBus) : Byte := t.extractLsb' 40 8

/-- `T[55:48]`, the second. -/
def tSecond (t : TBus) : Byte := t.extractLsb' 48 8

/-- The T bus that carries the given fields (R61). -/
def tBus (year : BitVec 16) (month day hour minute second : Byte) : TBus :=
  second ++ minute ++ hour ++ day ++ month ++ year

/-- Byte `k` of a B bus, bits `[8k+7:8k]` (R62). -/
def bByte (b : BBus) (k : Fin 7) : Byte := b.extractLsb' (8 * k.val) 8

/-- The B bus whose byte `k` is `f k` (R62). -/
def bBus (f : Fin 7 → Byte) : BBus := f 6 ++ f 5 ++ f 4 ++ f 3 ++ f 2 ++ f 1 ++ f 0

/-- `MASK[k]` (R5): byte 0's mask is 0xFF in every implementation. -/
def fieldMask (c : Config) (k : Fin 7) : Byte :=
  match k with
  | 0 => 0xFF
  | 1 => c.maskYearHigh
  | 2 => c.maskMonth
  | 3 => c.maskDay
  | 4 => c.maskHour
  | 5 => c.maskMinute
  | 6 => c.maskSecond

/-- The byte of a time that belongs in byte `k` of a RegisterBlock: `f[k]` of R85. -/
def timeByte (t : TBus) (k : Fin 7) : Byte :=
  match k with
  | 0 => (tYear t).extractLsb' 0 8
  | 1 => (tYear t).extractLsb' 8 8
  | 2 => tMonth t
  | 3 => tDay t
  | 4 => tHour t
  | 5 => tMinute t
  | 6 => tSecond t

/-- A T-bus value as the integers the calendar rules compute with (R8, R103). -/
def calOfBus (t : TBus) : CalTime where
  year := (tYear t).toNat
  month := (tMonth t).toNat
  day := (tDay t).toNat
  hour := (tHour t).toNat
  minute := (tMinute t).toNat
  second := (tSecond t).toNat

/-- A calendar time on the T bus, each field narrowed to its width (R8); a valid time fits. -/
def busOfCal (t : CalTime) : TBus :=
  tBus (BitVec.ofNat 16 t.year) (BitVec.ofNat 8 t.month) (BitVec.ofNat 8 t.day) (BitVec.ofNat 8 t.hour)
    (BitVec.ofNat 8 t.minute) (BitVec.ofNat 8 t.second)

/-- `D[2:0]`, LINECFG's operand (R63). -/
def dLines (d : DBus) : BitVec 3 := d.extractLsb' 0 3

/-- `D[15:3]`, which LINECFG requires to be 0 (R63). -/
def dReserved (d : DBus) : BitVec 13 := d.extractLsb' 3 13

/-- The number L of a line (R120): its bit of ACTIVE and its `irq` input. -/
def lineIndex : Line → Nat
  | .alarm => 0
  | .tickSecond => 1
  | .tickPeriodic => 2

/-- The pattern of `irq[2:0]` that is one pulse of a line (R69). -/
def linePattern : Line → IrqVector
  | .alarm => 0b001
  | .tickSecond => 0b010
  | .tickPeriodic => 0b100

/-- The event word a line's delivery enqueues (R122). -/
def lineEvent : Line → EventWord
  | .alarm => 0x8001
  | .tickSecond => 0x8002
  | .tickPeriodic => 0x8003

/-- EMPTY, what EVPOP returns from an empty queue (R122). -/
def emptyEvent : EventWord := 0x0000

/-- `ACTIVE[L] = 1` (R26, R121). -/
def State.lineActive (s : State) (l : Line) : Bool := s.active.getLsbD (lineIndex l)

end Sys2Proof.Machine
end

