-- ==== Sys2Proof/Syntax.lean ====
section
/-! DEFINITION. The instructions: one constructor per row of spec/opcode_table.json. No constructor has an argument: no
immediate is carried in the command word, and all operands come on the buses (30_encoding.md R64). -/

namespace Sys2Proof

/-- The nine commands of R65 and the three interrupt-input deliveries of R69. -/
inductive Instr where
  /-- DECODE, command 0x10 (R83). -/
  | decode
  /-- ENCODE, command 0x11 (R85). -/
  | encode
  /-- ADVANCE, command 0x20 (R106). -/
  | advance
  /-- RETREAT, command 0x21 (R107). -/
  | retreat
  /-- LINECFG, command 0x30 (R130). -/
  | lineCfg
  /-- LINESTAT, command 0x31 (R131). -/
  | lineStat
  /-- EVPOP, command 0x32 (R132). -/
  | evPop
  /-- SETRATE, command 0x40 (R146). -/
  | setRate
  /-- GETRATE, command 0x41 (R147). -/
  | getRate
  /-- IRQ_ALARM, pattern 0b001 (R123). -/
  | irqAlarm
  /-- IRQ_TICK, pattern 0b010 (R124). -/
  | irqTick
  /-- IRQ_PERIODIC, pattern 0b100 (R125). -/
  | irqPeriodic
  deriving DecidableEq, Repr

end Sys2Proof
end

