-- ==== Sys2Proof/WellFormed.lean ====
section
/-! DEFINITION. Well-formedness: the bounds of 00_scope.md R6 on a choice of parameters, the patterns of `irq[2:0]` that are
one delivery (30_encoding.md R69), and instructions (which carry no operand, so that each is well formed). -/

namespace Sys2Proof

/-- A low-order contiguous mask `2^w - 1` with `1 ≤ w ≤ 8` (R6). -/
def Byte.isFieldMask (m : Byte) : Bool := m != 0 && m &&& (m + 1) == 0

/-- `m` holds every bit of `low` (R6's `⊇`). -/
def Byte.covers (m low : Byte) : Bool := m &&& low == low

/-- R6: every mask is a field mask, the month to second masks hold their ranges, and the year range fits. -/
def Config.wellFormed (c : Config) : Bool :=
  c.maskYearHigh.isFieldMask && c.maskMonth.isFieldMask && c.maskDay.isFieldMask
    && c.maskHour.isFieldMask && c.maskMinute.isFieldMask && c.maskSecond.isFieldMask
    && c.maskMonth.covers 0x0F && c.maskDay.covers 0x1F && c.maskHour.covers 0x1F
    && c.maskMinute.covers 0x3F && c.maskSecond.covers 0x3F
    && decide (c.yearMax ≤ 256 * c.maskYearHigh.toNat + 255)

/-- A pattern that is exactly one delivery (R69): one line pulses. -/
def IrqVector.isOneDelivery (p : IrqVector) : Bool := p == 0b001 || p == 0b010 || p == 0b100

/-- What an agent presents in one step: any command word, or one pulse. -/
def PortWord.wellFormed : PortWord → Bool
  | .command _ => true
  | .pulses p => p.isOneDelivery

/-- Every instruction is well formed: none has an operand field (R64). -/
def Instr.wellFormed : Instr → Bool
  | .decode => true
  | .encode => true
  | .advance => true
  | .retreat => true
  | .lineCfg => true
  | .lineStat => true
  | .evPop => true
  | .setRate => true
  | .getRate => true
  | .irqAlarm => true
  | .irqTick => true
  | .irqPeriodic => true

end Sys2Proof
end

