-- ==== Sys2Proof/Decode.lean ====
section
/-! DEFINITION. The decoder (30_encoding.md R64 to R66, R69), total on every word a port can carry and rejecting by name;
after it the encoder, from the same tables. -/

namespace Sys2Proof

/-- Why a port word is no instruction. -/
inductive DecodeError where
  /-- A command word outside the opcode map (R66). The step answers UNSUPPORTED (R161): safe, it is the spec's effect. -/
  | unrecognised (w : CmdWord)
  /-- A pattern with no pulse: no delivery (R69). -/
  | noPulse
  /-- A pattern with several pulses: several deliveries, each a step of its own (R69). -/
  | severalPulses (p : IrqVector)
  deriving DecidableEq, Repr

/-- The unit field `[7:4]` of a command word (R64). -/
def cmdUnit (w : CmdWord) : BitVec 4 := w.extractLsb' 4 4

/-- The function field `[3:0]` of a command word (R64). -/
def cmdFn (w : CmdWord) : BitVec 4 := w.extractLsb' 0 4

/-- The opcode map of R65, read by unit and function. -/
def decodeCommand (w : CmdWord) : Except DecodeError Instr :=
  match (cmdUnit w).toNat, (cmdFn w).toNat with
  | 1, 0 => .ok .decode
  | 1, 1 => .ok .encode
  | 2, 0 => .ok .advance
  | 2, 1 => .ok .retreat
  | 3, 0 => .ok .lineCfg
  | 3, 1 => .ok .lineStat
  | 3, 2 => .ok .evPop
  | 4, 0 => .ok .setRate
  | 4, 1 => .ok .getRate
  | _, _ => .error (.unrecognised w)

/-- The pulse patterns of R69. -/
def decodePulses (p : IrqVector) : Except DecodeError Instr :=
  match p.toNat with
  | 0 => .error .noPulse
  | 1 => .ok .irqAlarm
  | 2 => .ok .irqTick
  | 4 => .ok .irqPeriodic
  | _ => .error (.severalPulses p)

/-- The decoder: what an agent's port word stands for. -/
def decode : PortWord → Except DecodeError Instr
  | .command w => decodeCommand w
  | .pulses p => decodePulses p

/-- The encoder, from R65 and R69. -/
def encode : Instr → PortWord
  | .decode => .command 0x10
  | .encode => .command 0x11
  | .advance => .command 0x20
  | .retreat => .command 0x21
  | .lineCfg => .command 0x30
  | .lineStat => .command 0x31
  | .evPop => .command 0x32
  | .setRate => .command 0x40
  | .getRate => .command 0x41
  | .irqAlarm => .pulses 0b001
  | .irqTick => .pulses 0b010
  | .irqPeriodic => .pulses 0b100

/-- The port word that a word of spec/opcode_table.json stands for. The table numbers two ports in one list: rows of format C
are CMD, rows of format I are `irq[2:0]`. DESIGN CHOICE (log 7): a word below 8 is a pattern of `irq[2:0]`, since no command
of R65 lies there; any other 8-bit word is a command word. -/
def tablePortWord (nbits w : Nat) : Option PortWord :=
  if w < 8 ∧ 3 ≤ nbits ∧ nbits ≤ 8 then some (.pulses (BitVec.ofNat 3 w))
  else if w < 256 ∧ nbits = 8 then some (.command (BitVec.ofNat 8 w))
  else none

/-- The instruction the decoder reads from a word numbered as spec/opcode_table.json numbers it. -/
def decodeTableWord (nbits w : Nat) : Option Instr :=
  match tablePortWord nbits w with
  | none => none
  | some p =>
    match decode p with
    | .ok i => some i
    | .error _ => none

end Sys2Proof
end

