-- ==== Sys2Proof/Machine/Ops.lean ====
section
/-! DEFINITION. The named operations on the block's state: the writes of 00_scope.md R8's `F <- v`, `respond`, the fault
entry of 60_exceptions.md R163, the reset of 70_reset_and_hazards.md R180 and the queue of 42_dispatcher.md R126, R132. -/

namespace Sys2Proof.Machine

/-- `ACTIVE <- v`. -/
def State.setActive (s : State) (v : BitVec 3) : State := { s with active := v }

/-- `PTICKS <- v`. -/
def State.setPticks (s : State) (v : BitVec 16) : State := { s with pticks := some v }

/-- `EVQ <- q`. -/
def State.setEvq (s : State) (q : List EventWord) : State := { s with evq := q }

/-- `FAULT <- c`. -/
def State.setFault (s : State) (c : FaultCode) : State := { s with fault := some c }

/-- Drive the output ports with a command's response (R25, R30). -/
def State.respond (s : State) (r : Response) : State := { s with resp := some r }

/-- A step that drives no STATUS and no output bus (R25, R127). -/
def State.silent (s : State) : State := { s with resp := none }

/-- `respond(OK)`: no output bus holds a value. -/
def Response.done : Response := { status := .ok, tOut := none, bOut := none, dOut := none }

/-- `respond(OK, T_OUT = v)`. -/
def Response.time (v : TBus) : Response := { status := .ok, tOut := some v, bOut := none, dOut := none }

/-- `respond(OK, B_OUT = v)`. -/
def Response.block (v : BBus) : Response := { status := .ok, tOut := none, bOut := some v, dOut := none }

/-- `respond(OK, D_OUT = v)`. -/
def Response.scalar (v : DBus) : Response := { status := .ok, tOut := none, bOut := none, dOut := some v }

/-- `respond(UNSUPPORTED)`: no output bus holds a value (R161). -/
def Response.unsupported : Response := { status := .unsupported, tOut := none, bOut := none, dOut := none }

/-- The response of a command that faults: STATUS is the code, no output bus holds a value (R163). -/
def Response.faulted (c : FaultCode) : Response := { status := .faulted c, tOut := none, bOut := none, dOut := none }

/-- Fault entry of a command (R163): FAULT takes the code, STATUS is the code, and nothing else of the block is written. -/
def raiseOnCommand (c : FaultCode) (s : State) : Host.Outcome State Fault Refusal :=
  .next ((s.setFault c).respond (Response.faulted c))

/-- Fault entry of a delivery (R163): FAULT takes the code; a delivery has no response (R123). -/
def raiseOnDelivery (c : FaultCode) (s : State) : Host.Outcome State Fault Refusal :=
  .next (s.setFault c).silent

/-- No agent has a step while FAULT is not `none` (R164). -/
def whenLive (s : State) (k : Host.Outcome State Fault Refusal) : Host.Outcome State Fault Refusal :=
  match s.fault with
  | none => k
  | some c => .fault (.noStep c)

/-- The reset of R180: the values of R33 in the block's state, and the response dropped. The ports, the model's own
bookkeeping and the parameters are no block state and stay (log 17). -/
def State.resetBlock (s : State) : State :=
  { s with active := 0b000, pticks := none, evq := [], fault := none, resp := none }

/-- Is EVQ at its capacity `EVQ_DEPTH`? Never when that is unbounded (R126). -/
def State.evqFull (s : State) : Bool :=
  match s.cfg.evqDepth with
  | none => false
  | some n => s.evq.length == n

/-- `enqueue(ev)` of a delivery (R126): merge, overflow, or append at the tail. -/
def enqueue (ev : EventWord) (s : State) : Host.Outcome State Fault Refusal :=
  if s.cfg.evCoalesce && s.evq.contains ev then .next s.silent
  else if s.evqFull then raiseOnDelivery .evqOverflow s
  else .next (s.setEvq (s.evq ++ [ev])).silent

/-- What a word that decodes to no instruction does: an unrecognised command changes nothing and answers UNSUPPORTED
(R161); a pattern that is not one pulse is no delivery and does nothing. -/
def rejectWord (e : DecodeError) (s : State) : State :=
  match e with
  | .unrecognised _ => s.respond Response.unsupported
  | .noPulse => s.silent
  | .severalPulses _ => s.silent

end Sys2Proof.Machine
end

