-- ==== Sys2Proof/Machine/AlarmAdjuster.lean ====
section
/-! DEFINITION. The AlarmAdjuster unit (41_alarm_adjuster.md): ADVANCE and RETREAT. The domain check comes first, then the
range check (60_exceptions.md R167). -/

namespace Sys2Proof.Machine

/-- The shape ADVANCE and RETREAT share: the domain check, the end of the calendar that has no result, the adjusted time. -/
def adjust (edge : CalTime) (f : CalTime → CalTime) (s : State) : Host.Outcome State Fault Refusal :=
  if validTime s.cfg.yearMax (calOfBus s.bus.tIn) then
    if calOfBus s.bus.tIn = edge then raiseOnCommand .adjRange s
    else .next (s.respond (Response.time (busOfCal (f (calOfBus s.bus.tIn)))))
  else raiseOnCommand .adjDomain s

/-- ADVANCE (R106), by the carry chain R108 allows; YEAR_MAX-12-31T23:59:59 is the one valid time out of range (log 10). -/
def execAdvance (s : State) : Host.Outcome State Fault Refusal :=
  whenLive s (adjust (lastTime s.cfg.yearMax) carrySecond s)

/-- RETREAT (R107), by the borrow chain of R109; YEAR_MIN-01-01T00:00:00 is the one valid time out of range (log 10). -/
def execRetreat (s : State) : Host.Outcome State Fault Refusal :=
  whenLive s (adjust firstTime borrowSecond s)

end Sys2Proof.Machine
end

