-- ==== Sys2Proof/Machine/InterruptLines.lean ====
section
/-! DEFINITION. The InterruptDispatcher unit (42_dispatcher.md): the three deliveries, LINECFG, LINESTAT and EVPOP. -/

namespace Sys2Proof.Machine

/-- A delivery on a line (R121): an event when the line is active, else nothing at all. No response either way (R127). -/
def deliver (l : Line) (s : State) : Host.Outcome State Fault Refusal :=
  if s.lineActive l then enqueue (lineEvent l) s else .next s.silent

/-- LINECFG (R130). -/
def execLineCfg (s : State) : Host.Outcome State Fault Refusal :=
  whenLive s
    (if dReserved s.bus.dIn = 0 then .next ((s.setActive (dLines s.bus.dIn)).respond Response.done)
     else .next (s.respond Response.unsupported))

/-- LINESTAT (R131). -/
def execLineStat (s : State) : Host.Outcome State Fault Refusal :=
  whenLive s (.next (s.respond (Response.scalar (s.active.setWidth 16))))

/-- R132 on a queue: the word EVPOP returns and the queue it leaves. -/
def popEvent (q : List EventWord) : EventWord × List EventWord :=
  match q with
  | [] => (emptyEvent, [])
  | e :: rest => (e, rest)

/-- EVPOP (R132). -/
def execEvPop (s : State) : Host.Outcome State Fault Refusal :=
  whenLive s (.next ((s.setEvq (popEvent s.evq).2).respond (Response.scalar (popEvent s.evq).1)))

/-- IRQ_ALARM (R123). -/
def execIrqAlarm (s : State) : Host.Outcome State Fault Refusal := whenLive s (deliver .alarm s)

/-- IRQ_TICK (R124). -/
def execIrqTick (s : State) : Host.Outcome State Fault Refusal := whenLive s (deliver .tickSecond s)

/-- IRQ_PERIODIC (R125): it does not read PTICKS. -/
def execIrqPeriodic (s : State) : Host.Outcome State Fault Refusal := whenLive s (deliver .tickPeriodic s)

end Sys2Proof.Machine
end

