-- ==== Sys2Proof/Machine/PeriodicRate.lean ====
section
/-! DEFINITION. The PeriodicRate unit (43_periodic_rate.md): SETRATE and GETRATE, integer divisions that truncate (R145). -/

namespace Sys2Proof.Machine

/-- `TICK_BASE` (R5). -/
def tickBase : Nat := 1024

/-- `TICK_BASE div n` on the 16 bits of PTICKS or the D bus (R145). -/
def tickDiv (n : BitVec 16) : BitVec 16 := BitVec.ofNat 16 (tickBase / n.toNat)

/-- SETRATE (R146). -/
def execSetRate (s : State) : Host.Outcome State Fault Refusal :=
  whenLive s
    (if s.bus.dIn = 0 ∨ tickBase < s.bus.dIn.toNat then raiseOnCommand .rateRange s
     else .next ((s.setPticks (tickDiv s.bus.dIn)).respond Response.done))

/-- GETRATE (R147). PTICKS is never 0 (R146); a state that held 0 all the same gives the division no result (log 12). -/
def execGetRate (s : State) : Host.Outcome State Fault Refusal :=
  whenLive s
    (match s.pticks with
     | none => raiseOnCommand .rateUnset s
     | some n => if n = 0 then .fault .zeroDivisor else .next (s.respond (Response.scalar (tickDiv n))))

end Sys2Proof.Machine
end

