-- ==== Sys2Proof/Machine/TimeCodec.lean ====
section
/-! DEFINITION. The TimeCodec unit (40_timecodec.md): DECODE and ENCODE. Neither checks its operands (R84, R87). -/

namespace Sys2Proof.Machine

/-- The field bits of byte `k` (R81). -/
def fieldBits (c : Config) (b : BBus) (k : Fin 7) : Byte := bByte b k &&& fieldMask c k

/-- R83: the time a RegisterBlock holds, the year little-endian in bytes 0 and 1 (R42), no bias anywhere (R82). -/
def decodeBlock (c : Config) (b : BBus) : TBus :=
  tBus (((fieldBits c b 1).setWidth 16 <<< 8) ||| (fieldBits c b 0).setWidth 16)
    (fieldBits c b 2) (fieldBits c b 3) (fieldBits c b 4) (fieldBits c b 5) (fieldBits c b 6)

/-- R85's `out[k]`: the existing byte with its field bits replaced. -/
def mergeByte (c : Config) (t : TBus) (b : BBus) (k : Fin 7) : Byte :=
  (bByte b k &&& ~~~(fieldMask c k)) ||| (timeByte t k &&& fieldMask c k)

/-- R85: the existing RegisterBlock with every field of the time written into it. -/
def encodeBlock (c : Config) (t : TBus) (b : BBus) : BBus := bBus (mergeByte c t b)

/-- DECODE (R83). -/
def execDecode (s : State) : Host.Outcome State Fault Refusal :=
  whenLive s (.next (s.respond (Response.time (decodeBlock s.cfg s.bus.bIn))))

/-- ENCODE (R85). -/
def execEncode (s : State) : Host.Outcome State Fault Refusal :=
  whenLive s (.next (s.respond (Response.block (encodeBlock s.cfg s.bus.tIn s.bus.bIn))))

end Sys2Proof.Machine
end

