-- ==== Sys2Proof/Machine/Dispatch.lean ====
section
/-! DEFINITION. The dispatch: one arm per instruction, each one call of its meaning. -/

namespace Sys2Proof.Machine

def exec (i : Instr) (s : State) : Host.Outcome State Fault Refusal :=
  match i with
  | .decode => Sys2Proof.Machine.execDecode s
  | .encode => Sys2Proof.Machine.execEncode s
  | .advance => Sys2Proof.Machine.execAdvance s
  | .retreat => Sys2Proof.Machine.execRetreat s
  | .lineCfg => Sys2Proof.Machine.execLineCfg s
  | .lineStat => Sys2Proof.Machine.execLineStat s
  | .evPop => Sys2Proof.Machine.execEvPop s
  | .setRate => Sys2Proof.Machine.execSetRate s
  | .getRate => Sys2Proof.Machine.execGetRate s
  | .irqAlarm => Sys2Proof.Machine.execIrqAlarm s
  | .irqTick => Sys2Proof.Machine.execIrqTick s
  | .irqPeriodic => Sys2Proof.Machine.execIrqPeriodic s

end Sys2Proof.Machine
end

