-- ==== Sys2Proof/Machine/Fetch.lean ====
section
/-! DEFINITION. What the ports present to the next step: the reset, the agents of the current sample (10_state.md R20,
30_encoding.md R60, R69) and the order among them (20_memory.md R48). -/

namespace Sys2Proof.Machine

/-- The agents that have a step to take in a port sample: the command port when a command is presented, and one agent for
each pulsing line (R60, R69). -/
def pendingAgents (p : InPorts) : List Agent :=
  (if p.cmdValid then [Agent.cmd] else [])
    ++ (if p.irq.getLsbD (lineIndex .alarm) then [Agent.irq .alarm] else [])
    ++ (if p.irq.getLsbD (lineIndex .tickSecond) then [Agent.irq .tickSecond] else [])
    ++ (if p.irq.getLsbD (lineIndex .tickPeriodic) then [Agent.irq .tickPeriodic] else [])

/-- The sample once an agent has been given its step: its command or its pulse is gone. -/
def clearAgent (p : InPorts) (a : Agent) : InPorts :=
  match a with
  | .cmd => { p with cmdValid := false }
  | .irq l => { p with irq := p.irq &&& ~~~(linePattern l) }

/-- What is still presented once an agent has been given its step: the rest of its sample, if any, then the later samples. -/
def remaining (p : InPorts) (a : Agent) (later : List InPorts) : List InPorts :=
  match pendingAgents (clearAgent p a) with
  | [] => later
  | _ :: _ => clearAgent p a :: later

/-- The word an agent presents to the decoder. -/
def agentWord (p : InPorts) (a : Agent) : PortWord :=
  match a with
  | .cmd => .command p.cmd
  | .irq l => .pulses (linePattern l)

/-- The operand buses of an agent's step: a command samples them from the ports (R23); a delivery reads none (R127). -/
def agentBuses (s : State) (p : InPorts) (a : Agent) : Buses :=
  match a with
  | .cmd => p.buses
  | .irq _ => s.bus

/-- The agent that goes next among two or more presented together. Any of them may (R48, R49, R167): a free choice (log 3). -/
def chosenAgent (draw : Nat) (a b : Agent) (more : List Agent) : Agent :=
  (a :: b :: more).getD (Config.freeChoice draw % (more.length + 2)) a

/-- What the ports give the next step. -/
inductive Fetched where
  /-- No agent takes a step: the state after a reset, or with nothing presented. -/
  | quiet (s : State)
  /-- No agent has a step, FAULT holding `c`, and no reset is presented (R164). -/
  | stuck (c : FaultCode)
  /-- One agent takes a step with this word, in this state. -/
  | turn (w : PortWord) (s : State)
  deriving DecidableEq, Repr

/-- One agent of the sample `p` takes its step. -/
def giveTurn (s : State) (p : InPorts) (later : List InPorts) (a : Agent) : Fetched :=
  .turn (agentWord p a) { s with inputs := remaining p a later, bus := agentBuses s p a }

/-- What is presented after the first sample with `rst`; `none` when no sample has it. -/
def afterReset (l : List InPorts) : Option (List InPorts) :=
  match l with
  | [] => none
  | p :: later => if p.rst then some later else afterReset later

/-- What a faulted block does: no agent has a step until `rst` (R164), so what is presented before it is lost (93 U13) and the
next step is the reset, in the same step of the machine (log 20); with no `rst` presented the block is stuck (log 5). -/
def fetchFaulted (c : FaultCode) (s : State) : Fetched :=
  match afterReset s.inputs with
  | none => .stuck c
  | some later => .quiet (State.resetBlock { s with inputs := later })

/-- What a block without a fault does. While `rst` is held no agent has a step, and what is presented with it is lost (R180);
else one agent of the first sample takes its step. -/
def fetchLive (s : State) : Fetched :=
  match s.inputs with
  | [] => .quiet s.silent
  | p :: later =>
    if p.rst then .quiet (State.resetBlock { s with inputs := later })
    else
      match pendingAgents p with
      | [] => .quiet (State.silent { s with inputs := later })
      | [a] => giveTurn s p later a
      | a :: b :: more => giveTurn { s with draws := s.draws + 1 } p later (chosenAgent s.draws a b more)

/-- The next step's input. -/
def fetch (s : State) : Fetched :=
  match s.fault with
  | some c => fetchFaulted c s
  | none => fetchLive s

/-- The sample that presents one table word on its port: a command with operand buses of zeros, or pulses. -/
def sampleOfWord (nbits w : Nat) : InPorts :=
  match tablePortWord nbits w with
  | some (.pulses p) =>
    { rst := false, cmdValid := false, cmd := 0, buses := { tIn := 0, bIn := 0, dIn := 0 }, irq := p }
  | _ =>
    { rst := false, cmdValid := true, cmd := BitVec.ofNat 8 w, buses := { tIn := 0, bIn := 0, dIn := 0 }, irq := 0 }

/-- The state with one more sample in front of what is presented. -/
def presentFirst (s : State) (p : InPorts) : State := { s with inputs := p :: s.inputs }

end Sys2Proof.Machine
end

