-- ==== Sys2Proof/Machine/Step.lean ====
section
/-! DEFINITION. One step of the machine: take what the ports give, decode it, run it. -/

namespace Sys2Proof.Machine

/-- An agent's step with its word: the decoded instruction, or, for a word that is none, its step without effect (R161). -/
def runWord (w : PortWord) (s : State) : Host.Outcome State Fault Refusal :=
  match decode w with
  | .ok i => exec i s
  | .error e => .next (rejectWord e s)

/-- What the block does with what the ports gave, under parameters that R6 allows: a faulted block without `rst` is the fault
outcome of R164. A choice of parameters that breaks R6 is refused (log 14). -/
def runFetched (f : Fetched) (allowed : Bool) : Host.Outcome State Fault Refusal :=
  match f, allowed with
  | .quiet s, true => .next s
  | .stuck c, true => .fault (.noStep c)
  | .turn w s, true => runWord w s
  | .stuck _, false => .refused .badParameters
  | .quiet _, false => .refused .badParameters
  | .turn _ _, false => .refused .badParameters

/-- One step. -/
def step (s : State) : Host.Outcome State Fault Refusal := runFetched (fetch s) s.cfg.wellFormed

/-- The state with the instruction of a table word presented as the next step's input (log 7, log 15). -/
def State.withFetchWord (s : State) (nbits w : Nat) : State := presentFirst s (sampleOfWord nbits w)

end Sys2Proof.Machine
end

