-- ==== Sys2Proof/Machine/Flags.lean ====
section
/-! DEFINITION. The flag-like outputs of the block: the 4-bit STATUS codes (60_exceptions.md R160) and the two output wires
(10_state.md R28, R29). The block has no condition codes (R25). -/

namespace Sys2Proof.Machine

/-- The 4-bit code of a fault (R160). -/
def FaultCode.bits : FaultCode → BitVec 4
  | .adjDomain => 0x8
  | .adjRange => 0x9
  | .rateRange => 0xA
  | .rateUnset => 0xB
  | .evqOverflow => 0xC

/-- The 4-bit code on the STATUS port (R160). -/
def Status.bits : Status → BitVec 4
  | .ok => 0x0
  | .unsupported => 0x1
  | .faulted c => c.bits

/-- The STATUS port after a step: no value when the step drove none (R25). -/
def State.statusPort (s : State) : Option (BitVec 4) := s.resp.map fun r => r.status.bits

/-- The T_OUT port after a step (R30). -/
def State.tOutPort (s : State) : Option TBus := s.resp.bind fun r => r.tOut

/-- The B_OUT port after a step (R30). -/
def State.bOutPort (s : State) : Option BBus := s.resp.bind fun r => r.bOut

/-- The D_OUT port after a step (R30). -/
def State.dOutPort (s : State) : Option DBus := s.resp.bind fun r => r.dOut

/-- The `fault` output wire: high exactly when FAULT is not `none` (R28). -/
def State.faultWire (s : State) : Bool := s.fault.isSome

/-- The `evq_nonempty` output wire: high exactly when EVQ is not empty (R29). -/
def State.evqNonemptyWire (s : State) : Bool := !s.evq.isEmpty

end Sys2Proof.Machine
end

