-- ==== Sys2Proof/Machine/Pseudo.lean ====
section
/-! DEFINITION. The pseudo-operations of 30_encoding.md R71: sequences of commands that the host issues, carrying a result
from one command's response to the next command's operand bus (10_state.md R23). No step of another agent comes between the
commands here, although R50 allows one (log 18). -/

namespace Sys2Proof.Machine

/-- Issue one command with the given operand buses. -/
def issue (i : Instr) (b : Buses) (s : State) : Host.Outcome State Fault Refusal := exec i { s with bus := b }

/-- Go on with the host's next command when the last one answered OK, else issue no more (R71). -/
def andThen (r : Host.Outcome State Fault Refusal) (next : State → Host.Outcome State Fault Refusal) :
    Host.Outcome State Fault Refusal :=
  match r with
  | .next s =>
    match s.resp with
    | some q => if q.status = .ok then next s else .next s
    | none => .next s
  | .fault f => .fault f
  | .refused f => .refused f

/-- Go on with a command whose T_IN is `t_prev`, the T_OUT of the previous command carried by the host (R70, R71). -/
def withPrevTime (s : State) (next : TBus → Host.Outcome State Fault Refusal) : Host.Outcome State Fault Refusal :=
  match s.resp with
  | some q =>
    match q.tOut with
    | some t => next t
    | none => .next s
  | none => .next s

/-- `ALARM_WRITE t=T b=E` (R71). -/
def alarmWrite (t : TBus) (e : BBus) (s : State) : Host.Outcome State Fault Refusal :=
  andThen (issue .retreat { tIn := t, bIn := 0, dIn := 0 } s) fun s' =>
    withPrevTime s' fun prev => issue .encode { tIn := prev, bIn := e, dIn := 0 } s'

/-- `ALARM_READ b=B` (R71). -/
def alarmRead (b : BBus) (s : State) : Host.Outcome State Fault Refusal :=
  andThen (issue .decode { tIn := 0, bIn := b, dIn := 0 } s) fun s' =>
    withPrevTime s' fun prev => issue .advance { tIn := prev, bIn := 0, dIn := 0 } s'

/-- `TIME_WRITE t=T` (R71): ENCODE against a block of zeros. -/
def timeWrite (t : TBus) (s : State) : Host.Outcome State Fault Refusal :=
  issue .encode { tIn := t, bIn := 0, dIn := 0 } s

/-- `TIME_READ b=B` (R71). The caller checks the result with `valid_time`. -/
def timeRead (b : BBus) (s : State) : Host.Outcome State Fault Refusal :=
  issue .decode { tIn := 0, bIn := b, dIn := 0 } s

/-- `RATE_SET_GET d=H` (R71). -/
def rateSetGet (h : DBus) (s : State) : Host.Outcome State Fault Refusal :=
  andThen (issue .setRate { tIn := 0, bIn := 0, dIn := h } s) fun s' =>
    issue .getRate { tIn := 0, bIn := 0, dIn := 0 } s'

end Sys2Proof.Machine
end

