-- ==== Sys2Proof/Safety.lean ====
section
/-! DEFINITION. What claims speak of: the next state of an outcome, the safe states (60_exceptions.md R164), the invariant of
the block's registers, and the count of events of 42_dispatcher.md R133. -/

namespace Sys2Proof.Safety

open Sys2Proof.Machine

/-- The next state of an outcome, if it has one. -/
def nextOf (r : Host.Outcome State Fault Refusal) : Option State :=
  match r with
  | .next s => some s
  | .fault _ => none
  | .refused _ => none

/-- A state that refutes no claim: R164 makes the faulted state a fault outcome of the run, not a final state. -/
def Safe (s : State) : Prop := s.fault = none

/-- The outcome of a run of `n` steps from `s`, as R164 judges it: a faulted state, wherever on the run it stands, the last
state included, is the fault outcome of the whole run, and no later reset hides it (log 5). -/
def judgedRun : Nat → State → Host.Outcome State Fault Refusal
  | 0, s => whenLive s (.next s)
  | n + 1, s =>
    whenLive s
      (match step s with
       | .next s' => judgedRun n s'
       | .fault f => .fault f
       | .refused r => .refused r)

/-- A claim `P` about a run of `n` steps from `s`: the judged run ends in a state, and the state satisfies `P`. A run that
faults satisfies no claim: the fault outcome refutes it (R164). -/
def RunSatisfies (n : Nat) (s : State) (P : State → Prop) : Prop := ∃ s', judgedRun n s = .next s' ∧ P s'

/-- PTICKS is `none` or 1 to `TICK_BASE` (R27). -/
def PticksLegal (s : State) : Prop := ∀ n, s.pticks = some n → 1 ≤ n.toNat ∧ n.toNat ≤ 1024

/-- EVQ holds the three event words of R122 only; EMPTY is never enqueued. -/
def EventsLegal (s : State) : Prop := ∀ e ∈ s.evq, e = 0x8001 ∨ e = 0x8002 ∨ e = 0x8003

/-- EVQ never holds more than `EVQ_DEPTH` words (R29). -/
def DepthRespected (s : State) : Prop := ∀ n, s.cfg.evqDepth = some n → s.evq.length ≤ n

/-- With `EV_COALESCE` no event word stands twice in EVQ (R126). -/
def CoalescedOnce (s : State) : Prop := s.cfg.evCoalesce = true → s.evq.Nodup

/-- A response whose STATUS is not OK gives no output bus a value (R30). -/
def ResponseLegal (s : State) : Prop :=
  ∀ r, s.resp = some r → r.status ≠ .ok → r.tOut = none ∧ r.bOut = none ∧ r.dOut = none

/-- The invariant of the block. -/
def BlockInv (s : State) : Prop :=
  PticksLegal s ∧ EventsLegal s ∧ DepthRespected s ∧ CoalescedOnce s ∧ ResponseLegal s

/-- The delivery of a line, as an instruction. -/
def deliveryOf : Line → Instr
  | .alarm => .irqAlarm
  | .tickSecond => .irqTick
  | .tickPeriodic => .irqPeriodic

/-- The events of a line in the queue. -/
def queued (l : Line) (s : State) : Nat := s.evq.count (lineEvent l)

/-- What happened in a sequence of steps: the deliveries the line's agent took, and its events that EVPOP returned. -/
structure Tally where
  delivered : Nat
  returned : Nat
  deriving DecidableEq, Repr

/-- The contribution of one step to a line's tally: `w` is the word its agent presented, `after` the state it left. -/
def tallyTurn (l : Line) (w : PortWord) (after : State) : Tally where
  delivered := if w = .pulses (linePattern l) then 1 else 0
  returned := if w = .command 0x32 ∧ after.dOutPort = some (lineEvent l) then 1 else 0

/-- The contribution of the step from `s` to `after`; nothing when no agent took a step. -/
def tallyStep (l : Line) (s after : State) : Tally :=
  match fetch s with
  | .quiet _ => { delivered := 0, returned := 0 }
  | .stuck _ => { delivered := 0, returned := 0 }
  | .turn w _ => tallyTurn l w after

/-- A run of `n` machine steps from `s`, with a line's tally; `none` when a step has no next state, and when the run would go
on from a faulted state (R164): the entry of a fault is the last step it counts. -/
def runTally (l : Line) : Nat → State → Option (State × Tally)
  | 0, s => some (s, { delivered := 0, returned := 0 })
  | n + 1, s =>
    match nextOf (whenLive s (step s)) with
    | none => none
    | some s' =>
      (runTally l n s').map fun r =>
        (r.1, { delivered := (tallyStep l s s').delivered + r.2.delivered,
                returned := (tallyStep l s s').returned + r.2.returned })

/-- A sample that neither resets the block nor presents LINECFG. -/
def keepsEnables (p : InPorts) : Prop := p.rst = false ∧ ¬ (p.cmdValid = true ∧ p.cmd = 0x30)

/-- R108's carry chain, transcribed line by line. -/
def carryChain (t : CalTime) : CalTime :=
  let s := t.second + 1
  let mi := if s = 60 then t.minute + 1 else t.minute
  let s := if s = 60 then 0 else s
  let h := if mi = 60 then t.hour + 1 else t.hour
  let mi := if mi = 60 then 0 else mi
  let d := if h = 24 then t.day + 1 else t.day
  let h := if h = 24 then 0 else h
  let mo := if d > daysInMonth t.year t.month then t.month + 1 else t.month
  let d := if d > daysInMonth t.year t.month then 1 else d
  let y := if mo = 13 then t.year + 1 else t.year
  let mo := if mo = 13 then 1 else mo
  { year := y, month := mo, day := d, hour := h, minute := mi, second := s }

/-- R109's borrow chain, transcribed line by line. -/
def borrowChain (t : CalTime) : CalTime :=
  if t.second > 0 then
    { year := t.year, month := t.month, day := t.day, hour := t.hour, minute := t.minute, second := t.second - 1 }
  else if t.minute > 0 then
    { year := t.year, month := t.month, day := t.day, hour := t.hour, minute := t.minute - 1, second := 59 }
  else if t.hour > 0 then
    { year := t.year, month := t.month, day := t.day, hour := t.hour - 1, minute := 59, second := 59 }
  else if t.day > 1 then
    { year := t.year, month := t.month, day := t.day - 1, hour := 23, minute := 59, second := 59 }
  else
    let mo := if t.month > 1 then t.month - 1 else 12
    let y := if t.month > 1 then t.year else t.year - 1
    { year := y, month := mo, day := daysInMonth y mo, hour := 23, minute := 59, second := 59 }

/-- Every field of a T-bus value fits its mask: R88's premise on the time. -/
def FitsMasks (c : Config) (t : TBus) : Prop :=
  (tYear t).toNat ≤ 256 * c.maskYearHigh.toNat + 255 ∧ tMonth t &&& c.maskMonth = tMonth t ∧
    tDay t &&& c.maskDay = tDay t ∧ tHour t &&& c.maskHour = tHour t ∧
    tMinute t &&& c.maskMinute = tMinute t ∧ tSecond t &&& c.maskSecond = tSecond t

/-- The T_IN bus holds a valid time (R103). -/
abbrev ValidIn (s : State) : Prop := validTime s.cfg.yearMax (calOfBus s.bus.tIn) = true

/-- The causes of R162's table, each fault's checks in the order of R167 (the range check is reached by a valid time only). -/
def FaultCause (c : FaultCode) (i : Instr) (s : State) : Prop :=
  match c with
  | .adjDomain => (i = .advance ∨ i = .retreat) ∧ ¬ ValidIn s
  | .adjRange => ValidIn s ∧
      ((i = .advance ∧ calOfBus s.bus.tIn = ⟨s.cfg.yearMax, 12, 31, 23, 59, 59⟩) ∨
        (i = .retreat ∧ calOfBus s.bus.tIn = ⟨1900, 1, 1, 0, 0, 0⟩))
  | .rateRange => i = .setRate ∧ (s.bus.dIn = 0 ∨ 1024 < s.bus.dIn.toNat)
  | .rateUnset => i = .getRate ∧ s.pticks = none
  | .evqOverflow => ∃ l, i = deliveryOf l ∧ s.lineActive l = true ∧
      ¬ (s.cfg.evCoalesce = true ∧ lineEvent l ∈ s.evq) ∧ s.cfg.evqDepth = some s.evq.length

/-- Is the instruction a delivery on an interrupt input, and not a command? -/
def isDelivery (i : Instr) : Bool := i == .irqAlarm || i == .irqTick || i == .irqPeriodic

end Sys2Proof.Safety
end

