-- ==== Sys2Proof/Certificates/Slice0/Obligations.lean ====
section
/-! DEFINITION. The statements for the provers, from the numbered rules of spec/. A statement about `exec` speaks of one
agent's step in any state; `step` is the machine's step, which takes the agent from the ports. -/

open Sys2Proof Sys2Proof.Machine Sys2Proof.Safety

/-! ## Reset and the machine's step -/

/-- 10_state.md R33: after reset every piece of state, every output port and both wires hold what the table says. -/
def Obligations.ResetHoldsSpecValues : Prop :=
  State.reset.active = 0b000 ∧ State.reset.pticks = none ∧ State.reset.evq = [] ∧ State.reset.fault = none ∧
    State.reset.statusPort = none ∧ State.reset.tOutPort = none ∧ State.reset.bOutPort = none ∧
    State.reset.dOutPort = none ∧ State.reset.faultWire = false ∧ State.reset.evqNonemptyWire = false

/-- The invariant holds at reset. -/
def Obligations.ResetSatisfiesInvariant : Prop := BlockInv State.reset

/-- Every step keeps the invariant: PTICKS legal (R27), EVQ of event words only (R122), never above its capacity (R29), no
event twice under `EV_COALESCE` (R126), no output value beside a STATUS that is not OK (R30). -/
def Obligations.StepKeepsInvariant : Prop :=
  ∀ s s', BlockInv s → step s = .next s' → BlockInv s'

/-- Under parameters R6 allows and the invariant, a step answers a next state exactly when FAULT is `none` or a reset is
presented (R161, R163, R164, R180), and is else the fault outcome of R164. THE MODEL'S CHOICE in two of its cases. The step
with nothing presented to a block without a fault, which the spec does not have (R188), answers a next state by log 13 (DESIGN
CHOICE). The step of a faulted block whose first sample has no `rst` while a later one has it answers a next state by log 20
(DESIGN CHOICE): the samples lost before the reset and the reset are one step of the machine. -/
def Obligations.StepAnswersUnlessFaulted : Prop :=
  ∀ s, s.cfg.wellFormed = true → BlockInv s →
    ((∃ s', step s = .next s') ↔ s.fault = none ∨ ∃ p ∈ s.inputs, p.rst = true) ∧
    ((∃ s', step s = .next s') ∨ ∃ c, s.fault = some c ∧ step s = .fault (.noStep c))

/-- A step runs the decoded command: when a sample presents one command and no pulse and its word decodes to `i`, the step is
`exec i` with the sample taken from the inputs and its operand buses sampled (R23, R53, R60). -/
def Obligations.StepRunsDecodedCommand : Prop :=
  ∀ s p later i, s.cfg.wellFormed = true → s.fault = none → s.inputs = p :: later → p.rst = false →
    p.cmdValid = true → p.irq = 0 → decode (.command p.cmd) = .ok i →
    step s = exec i { s with inputs := later, bus := p.buses }

/-- A step runs the decoded delivery: when a sample presents one pulse and no command, the step is `exec` of that line's
delivery with the sample taken from the inputs (R69). -/
def Obligations.StepRunsDelivery : Prop :=
  ∀ s p later l, s.cfg.wellFormed = true → s.fault = none → s.inputs = p :: later → p.rst = false →
    p.cmdValid = false → p.irq = linePattern l →
    step s = exec (deliveryOf l) { s with inputs := later }

/-- When a sample presents several agents together, the step is that of one of them: it runs `exec` of that agent's
instruction, or answers UNSUPPORTED to its command; the others stay presented (R48, R69, R167; the choice is free, log 3). -/
def Obligations.StepServesOnePresentedAgent : Prop :=
  ∀ s p later, s.cfg.wellFormed = true → s.fault = none → s.inputs = p :: later → p.rst = false →
    pendingAgents p ≠ [] →
    ∃ a n, a ∈ pendingAgents p ∧
      (∀ i, decode (agentWord p a) = .ok i →
        step s = exec i { s with inputs := remaining p a later, bus := agentBuses s p a, draws := n }) ∧
      (∀ e, decode (agentWord p a) = .error e →
        step s = .next { s with inputs := remaining p a later, bus := agentBuses s p a, draws := n,
                                resp := some ⟨.unsupported, none, none, none⟩ })

/-- With nothing presented to a block without a fault, or a sample that presents neither reset nor an agent, the step changes
nothing of the block and drives nothing: the model's choice (log 13). -/
def Obligations.IdleStepChangesNothing : Prop :=
  ∀ s, s.cfg.wellFormed = true → s.fault = none → (s.inputs = [] → step s = .next { s with resp := none }) ∧
    (∀ p later, s.inputs = p :: later → p.rst = false → p.cmdValid = false → p.irq = 0 →
      step s = .next { s with inputs := later, resp := none })

/-- 60_exceptions.md R161: a command word outside the opcode map takes its step, changes nothing of the block, answers
UNSUPPORTED with no output value, and is no fault: the block goes on. -/
def Obligations.UnrecognisedCommandAnswersUnsupported : Prop :=
  ∀ s p later, s.cfg.wellFormed = true → s.fault = none → s.inputs = p :: later → p.rst = false →
    p.cmdValid = true → p.irq = 0 →
    p.cmd ∉ ([0x10, 0x11, 0x20, 0x21, 0x30, 0x31, 0x32, 0x40, 0x41] : List CmdWord) →
    step s = .next { s with inputs := later, bus := p.buses, resp := some ⟨.unsupported, none, none, none⟩ }

/-- From 70_reset_and_hazards.md R180: a sample with `rst` puts the reset values into the block, drops the response, and loses
the command and the pulses presented with it; it does so in every state, a faulted one too, and from a faulted state every step
that answers a next state is such a reset. THE MODEL'S CHOICE (log 20, DESIGN CHOICE): the samples presented to a faulted block
before `rst`, which are lost (93 U13, R164), are dropped in the same step of the machine as the reset. THE MODEL'S READING (log
17, DEDUCED): the operand buses, the later samples, the count of free choices and the parameters stay. -/
def Obligations.RstPutsResetValues : Prop :=
  (∀ s p later, s.cfg.wellFormed = true → s.inputs = p :: later → p.rst = true →
    step s = .next { s with inputs := later, active := 0b000, pticks := none, evq := [], fault := none, resp := none }) ∧
    ∀ s s' c, step s = .next s' → s.fault = some c →
      ∃ lost p later, s.inputs = lost ++ p :: later ∧ (∀ q ∈ lost, q.rst = false) ∧ p.rst = true ∧
        s' = { s with inputs := later, active := 0b000, pticks := none, evq := [], fault := none, resp := none }

/-- 00_scope.md R6: the bounds on a choice of parameters, and that a choice that breaks them is refused. -/
def Obligations.ParametersMeetBoundsOrAreRefused : Prop :=
  (∀ c : Config, c.wellFormed = true ↔
    (∀ k : Fin 7, ∃ w, 1 ≤ w ∧ w ≤ 8 ∧ (fieldMask c k).toNat = 2 ^ w - 1) ∧
      fieldMask c 0 = 0xFF ∧ fieldMask c 2 &&& 0x0F = 0x0F ∧ fieldMask c 3 &&& 0x1F = 0x1F ∧
      fieldMask c 4 &&& 0x1F = 0x1F ∧ fieldMask c 5 &&& 0x3F = 0x3F ∧ fieldMask c 6 &&& 0x3F = 0x3F ∧
      c.yearMax ≤ ((fieldMask c 1).toNat <<< 8) ||| 0xFF) ∧
    ∀ s : State, s.cfg.wellFormed = false → step s = .refused .badParameters

/-- The parameters are no state (R21): no step changes them. -/
def Obligations.StepKeepsParameters : Prop :=
  ∀ s s', step s = .next s' → s'.cfg = s.cfg

/-! ## Encoding -/

/-- The words of R65 and R69, written out, decode to their instructions; 0x00, 0x12, 0x33 and 0xFF (R66) to none. -/
def Obligations.OpcodeMapWordsDecode : Prop :=
  decode (.command 0b00010000) = .ok .decode ∧ decode (.command 0b00010001) = .ok .encode ∧
    decode (.command 0b00100000) = .ok .advance ∧ decode (.command 0b00100001) = .ok .retreat ∧
    decode (.command 0b00110000) = .ok .lineCfg ∧ decode (.command 0b00110001) = .ok .lineStat ∧
    decode (.command 0b00110010) = .ok .evPop ∧ decode (.command 0b01000000) = .ok .setRate ∧
    decode (.command 0b01000001) = .ok .getRate ∧ decode (.pulses 0b001) = .ok .irqAlarm ∧
    decode (.pulses 0b010) = .ok .irqTick ∧ decode (.pulses 0b100) = .ok .irqPeriodic ∧
    decode (.command 0x00) = .error (.unrecognised 0x00) ∧ decode (.command 0x12) = .error (.unrecognised 0x12) ∧
    decode (.command 0x33) = .error (.unrecognised 0x33) ∧ decode (.command 0xFF) = .error (.unrecognised 0xFF)

/-- Decoder and encoder agree both ways on every port word and every instruction: each instruction has one word. -/
def Obligations.DecodeAndEncodeAgree : Prop :=
  ∀ w i, decode w = .ok i ↔ w = encode i

/-- 30_encoding.md R61, R62: the fields of a T bus and the bytes of a B bus are the bits the tables give, and a bus is put
together from them. -/
def Obligations.BusFieldsAreAsLaidOut : Prop :=
  (∀ t : TBus, (tYear t).toNat = t.toNat % 2 ^ 16 ∧ (tMonth t).toNat = t.toNat / 2 ^ 16 % 2 ^ 8 ∧
    (tDay t).toNat = t.toNat / 2 ^ 24 % 2 ^ 8 ∧ (tHour t).toNat = t.toNat / 2 ^ 32 % 2 ^ 8 ∧
    (tMinute t).toNat = t.toNat / 2 ^ 40 % 2 ^ 8 ∧ (tSecond t).toNat = t.toNat / 2 ^ 48 ∧
    tBus (tYear t) (tMonth t) (tDay t) (tHour t) (tMinute t) (tSecond t) = t) ∧
    (∀ (b : BBus) (k : Fin 7), (bByte b k).toNat = b.toNat / 2 ^ (8 * k.val) % 2 ^ 8) ∧
    ∀ f : Fin 7 → Byte, ∀ k, bByte (bBus f) k = f k

/-! ## TimeCodec -/

/-- 40_timecodec.md R83: DECODE answers OK with the masked fields of B_IN on T_OUT, whatever B_IN holds, and writes no
state. -/
def Obligations.DecodeYieldsMaskedFields : Prop :=
  decode (.command 0x10) = .ok .decode ∧
    ∀ s, s.fault = none → ∃ o : TBus,
      exec .decode s = .next { s with resp := some ⟨.ok, some o, none, none⟩ } ∧
      tYear o = ((bByte s.bus.bIn 1 &&& s.cfg.maskYearHigh).setWidth 16 <<< 8) |||
        (bByte s.bus.bIn 0 &&& 0xFF).setWidth 16 ∧
      tMonth o = bByte s.bus.bIn 2 &&& s.cfg.maskMonth ∧ tDay o = bByte s.bus.bIn 3 &&& s.cfg.maskDay ∧
      tHour o = bByte s.bus.bIn 4 &&& s.cfg.maskHour ∧ tMinute o = bByte s.bus.bIn 5 &&& s.cfg.maskMinute ∧
      tSecond o = bByte s.bus.bIn 6 &&& s.cfg.maskSecond

/-- 40_timecodec.md R85: ENCODE answers OK with the existing block's bytes, each with its field bits replaced by the time's,
whatever T_IN and B_IN hold, and writes no state. -/
def Obligations.EncodeMergesFields : Prop :=
  decode (.command 0x11) = .ok .encode ∧
    ∀ s, s.fault = none → ∃ o : BBus,
      exec .encode s = .next { s with resp := some ⟨.ok, none, some o, none⟩ } ∧
      bByte o 0 = (bByte s.bus.bIn 0 &&& ~~~0xFF) ||| ((tYear s.bus.tIn).setWidth 8 &&& 0xFF) ∧
      bByte o 1 = (bByte s.bus.bIn 1 &&& ~~~s.cfg.maskYearHigh) |||
        ((tYear s.bus.tIn >>> 8).setWidth 8 &&& s.cfg.maskYearHigh) ∧
      bByte o 2 = (bByte s.bus.bIn 2 &&& ~~~s.cfg.maskMonth) ||| (tMonth s.bus.tIn &&& s.cfg.maskMonth) ∧
      bByte o 3 = (bByte s.bus.bIn 3 &&& ~~~s.cfg.maskDay) ||| (tDay s.bus.tIn &&& s.cfg.maskDay) ∧
      bByte o 4 = (bByte s.bus.bIn 4 &&& ~~~s.cfg.maskHour) ||| (tHour s.bus.tIn &&& s.cfg.maskHour) ∧
      bByte o 5 = (bByte s.bus.bIn 5 &&& ~~~s.cfg.maskMinute) ||| (tMinute s.bus.tIn &&& s.cfg.maskMinute) ∧
      bByte o 6 = (bByte s.bus.bIn 6 &&& ~~~s.cfg.maskSecond) ||| (tSecond s.bus.tIn &&& s.cfg.maskSecond)

/-- 40_timecodec.md R86: ENCODE keeps every non-field bit of the existing block. -/
def Obligations.EncodeKeepsNonFieldBits : Prop :=
  ∀ s, s.fault = none → ∃ s' o, exec .encode s = .next s' ∧ s'.bOutPort = some o ∧
    ∀ k : Fin 7, bByte o k &&& ~~~(fieldMask s.cfg k) = bByte s.bus.bIn k &&& ~~~(fieldMask s.cfg k)

/-- 40_timecodec.md R88: DECODE of what ENCODE gives is the time, for every time that fits the masks and every existing
block; with the default parameters so for every valid time. The parameters are ones R6 allows. -/
def Obligations.EncodeThenDecodeReturnsTime : Prop :=
  (∀ s (t : TBus) (e : BBus), s.fault = none → s.cfg.wellFormed = true → FitsMasks s.cfg t →
    ∃ s1 b s2, issue .encode ⟨t, e, 0⟩ s = .next s1 ∧ s1.bOutPort = some b ∧
      issue .decode ⟨0, b, 0⟩ s1 = .next s2 ∧ s2.tOutPort = some t) ∧
    ∀ s (t : TBus) (e : BBus), s.fault = none → s.cfg = Config.default →
      validTime s.cfg.yearMax (calOfBus t) = true →
      ∃ s1 b s2, issue .encode ⟨t, e, 0⟩ s = .next s1 ∧ s1.bOutPort = some b ∧
        issue .decode ⟨0, b, 0⟩ s1 = .next s2 ∧ s2.tOutPort = some t

/-- 40_timecodec.md R89: encoding a block's own time into the block gives the block back. -/
def Obligations.ReencodeRestoresBlock : Prop :=
  ∀ s (b : BBus), s.fault = none →
    ∃ s1 t s2, issue .decode ⟨0, b, 0⟩ s = .next s1 ∧ s1.tOutPort = some t ∧
      issue .encode ⟨t, b, 0⟩ s1 = .next s2 ∧ s2.bOutPort = some b

/-- 40_timecodec.md R90: DECODE sees only field bits. -/
def Obligations.DecodeSeesOnlyFieldBits : Prop :=
  ∀ s (b b' : BBus), s.fault = none →
    (∀ k : Fin 7, bByte b k &&& fieldMask s.cfg k = bByte b' k &&& fieldMask s.cfg k) →
    ∃ s1 s2, issue .decode ⟨0, b, 0⟩ s = .next s1 ∧ issue .decode ⟨0, b', 0⟩ s = .next s2 ∧ s1.tOutPort = s2.tOutPort

/-- 95_test_vectors.md 2.1: with the default masks and a block of zeros, TIME_WRITE of a valid time gives a block whose 56
bits are the T bus's own. -/
def Obligations.TimeWriteOfValidTimeIsItsBus : Prop :=
  ∀ s (t : TBus), s.fault = none → s.cfg = Config.default → validTime s.cfg.yearMax (calOfBus t) = true →
    ∃ s', timeWrite t s = .next s' ∧ s'.bOutPort = some t

/-- 10_state.md R22: what DECODE, ENCODE, ADVANCE and RETREAT answer depends on the command's inputs and the parameters
alone. -/
def Obligations.StatelessUnitsIgnoreState : Prop :=
  ∀ i s1 s2, i = .decode ∨ i = .encode ∨ i = .advance ∨ i = .retreat →
    s1.fault = none → s2.fault = none → s1.bus = s2.bus → s1.cfg = s2.cfg →
    ∃ t1 t2, exec i s1 = .next t1 ∧ exec i s2 = .next t2 ∧ t1.resp = t2.resp

/-! ## The calendar and AlarmAdjuster -/

/-- 41_alarm_adjuster.md R101 to R103: the leap rule, the month lengths, and the conditions of a valid time. -/
def Obligations.CalendarPrimitivesAreGregorian : Prop :=
  (∀ y, isLeap y = true ↔ (y % 4 = 0 ∧ y % 100 ≠ 0) ∨ y % 400 = 0) ∧
    (∀ y m, m ∈ [1, 3, 5, 7, 8, 10, 12] → daysInMonth y m = 31) ∧
    (∀ y m, m ∈ [4, 6, 9, 11] → daysInMonth y m = 30) ∧
    (∀ y, daysInMonth y 2 = if isLeap y = true then 29 else 28) ∧
    ∀ yearMax t, validTime yearMax t = true ↔
      (1900 ≤ t.year ∧ t.year ≤ yearMax) ∧ (1 ≤ t.month ∧ t.month ≤ 12) ∧
        (1 ≤ t.day ∧ t.day ≤ daysInMonth t.year t.month) ∧ t.hour ≤ 23 ∧ t.minute ≤ 59 ∧ t.second ≤ 59

/-- 41_alarm_adjuster.md R104: the number of seconds from the first second of the calendar, as the rule's two sums. -/
def Obligations.ToSecsIsTheSumOfDays : Prop :=
  ∀ yearMax t, validTime yearMax t = true →
    toSecs t = 86400 * ((∑ y ∈ Finset.Ico 1900 t.year, if isLeap y = true then 366 else 365)
      + (∑ m ∈ Finset.Ico 1 t.month, daysInMonth t.year m) + (t.day - 1))
      + 3600 * t.hour + 60 * t.minute + t.second

/-- 41_alarm_adjuster.md R105: `to_secs` is a bijection from the valid times onto 0 to `N_MAX`, and `from_secs` its
inverse. -/
def Obligations.ToSecsIsABijection : Prop :=
  ∀ yearMax, 1900 ≤ yearMax →
    nMax yearMax = toSecs ⟨yearMax, 12, 31, 23, 59, 59⟩ ∧
    (∀ t, validTime yearMax t = true → toSecs t ≤ nMax yearMax ∧ fromSecs (toSecs t) = t) ∧
    ∀ n, n ≤ nMax yearMax → validTime yearMax (fromSecs n) = true ∧ toSecs (fromSecs n) = n

/-- 41_alarm_adjuster.md R106: ADVANCE by the linear time axis: the domain fault, the range fault, or one second later. -/
def Obligations.AdvanceFollowsTheTimeAxis : Prop :=
  decode (.command 0x20) = .ok .advance ∧
    ∀ s, s.fault = none → s.cfg.wellFormed = true →
      exec .advance s =
        if ¬ ValidIn s then .next { s with fault := some .adjDomain, resp := some ⟨.faulted .adjDomain, none, none, none⟩ }
        else if toSecs (calOfBus s.bus.tIn) + 1 > nMax s.cfg.yearMax then
          .next { s with fault := some .adjRange, resp := some ⟨.faulted .adjRange, none, none, none⟩ }
        else .next { s with resp := some ⟨.ok, some (busOfCal (fromSecs (toSecs (calOfBus s.bus.tIn) + 1))), none, none⟩ }

/-- 41_alarm_adjuster.md R107: RETREAT by the linear time axis: the domain fault, the range fault, or one second earlier. -/
def Obligations.RetreatFollowsTheTimeAxis : Prop :=
  decode (.command 0x21) = .ok .retreat ∧
    ∀ s, s.fault = none → s.cfg.wellFormed = true →
      exec .retreat s =
        if ¬ ValidIn s then .next { s with fault := some .adjDomain, resp := some ⟨.faulted .adjDomain, none, none, none⟩ }
        else if (toSecs (calOfBus s.bus.tIn) : Int) - 1 < 0 then
          .next { s with fault := some .adjRange, resp := some ⟨.faulted .adjRange, none, none, none⟩ }
        else .next { s with resp := some ⟨.ok, some (busOfCal (fromSecs (toSecs (calOfBus s.bus.tIn) - 1))), none, none⟩ }

/-- 41_alarm_adjuster.md R108: ADVANCE completes with the carry chain's time on every valid time but the last. -/
def Obligations.AdvanceCompletesByCarryChain : Prop :=
  ∀ s, s.fault = none → s.cfg.wellFormed = true → ValidIn s →
    calOfBus s.bus.tIn ≠ ⟨s.cfg.yearMax, 12, 31, 23, 59, 59⟩ →
    ∃ o : TBus, exec .advance s = .next { s with resp := some ⟨.ok, some o, none, none⟩ } ∧
      calOfBus o = carryChain (calOfBus s.bus.tIn)

/-- 41_alarm_adjuster.md R109: RETREAT completes with the borrow chain's time on every valid time but the first. -/
def Obligations.RetreatCompletesByBorrowChain : Prop :=
  ∀ s, s.fault = none → s.cfg.wellFormed = true → ValidIn s → calOfBus s.bus.tIn ≠ ⟨1900, 1, 1, 0, 0, 0⟩ →
    ∃ o : TBus, exec .retreat s = .next { s with resp := some ⟨.ok, some o, none, none⟩ } ∧
      calOfBus o = borrowChain (calOfBus s.bus.tIn)

/-- 41_alarm_adjuster.md R110: where either of ADVANCE and RETREAT answers OK, the other undoes it, and its result is a valid
time. -/
def Obligations.AdvanceAndRetreatAreInverse : Prop :=
  ∀ s s1 (t o : TBus), s.cfg.wellFormed = true →
    (issue .advance ⟨t, 0, 0⟩ s = .next s1 → s1.resp = some ⟨.ok, some o, none, none⟩ →
      validTime s.cfg.yearMax (calOfBus o) = true ∧
        ∃ s2, issue .retreat ⟨o, 0, 0⟩ s1 = .next s2 ∧ s2.resp = some ⟨.ok, some t, none, none⟩) ∧
    (issue .retreat ⟨t, 0, 0⟩ s = .next s1 → s1.resp = some ⟨.ok, some o, none, none⟩ →
      validTime s.cfg.yearMax (calOfBus o) = true ∧
        ∃ s2, issue .advance ⟨o, 0, 0⟩ s1 = .next s2 ∧ s2.resp = some ⟨.ok, some t, none, none⟩)

/-- From 41_alarm_adjuster.md R111: ALARM_WRITE of a valid time other than the first, into any existing block, then ALARM_READ
of the block it gives, returns that time. THE MODEL'S CHOICE (log 18, DESIGN CHOICE): no step of another agent comes between
the commands; R50 and R184 allow one, and a fault of it would end the pair. -/
def Obligations.AlarmRoundTripReturnsTime : Prop :=
  ∀ s (t : TBus) (e : BBus), s.fault = none → s.cfg.wellFormed = true →
    validTime s.cfg.yearMax (calOfBus t) = true → calOfBus t ≠ ⟨1900, 1, 1, 0, 0, 0⟩ →
    ∃ s1 b s2, alarmWrite t e s = .next s1 ∧ s1.bOutPort = some b ∧ alarmRead b s1 = .next s2 ∧ s2.tOutPort = some t

/-! ## InterruptDispatcher -/

/-- 42_dispatcher.md R123 to R125, R122, R126: a delivery on an active line whose event does not merge and has room appends
the line's event word at the tail, answers nothing, and changes nothing else. -/
def Obligations.ActiveDeliveryAppendsItsEvent : Prop :=
  ∀ s i k w, s.fault = none →
    (i, k, w) ∈ ([(.irqAlarm, 0, 0x8001), (.irqTick, 1, 0x8002), (.irqPeriodic, 2, 0x8003)] : List (Instr × Nat × EventWord)) →
    s.active.getLsbD k = true → ¬ (s.cfg.evCoalesce = true ∧ w ∈ s.evq) → s.cfg.evqDepth ≠ some s.evq.length →
    exec i s = .next { s with evq := s.evq ++ [w], resp := none }

/-- 42_dispatcher.md R126: with `EV_COALESCE`, a delivery on an active line whose event is queued already merges with it. -/
def Obligations.CoalescedDeliveryMerges : Prop :=
  ∀ s l, s.fault = none → s.lineActive l = true → s.cfg.evCoalesce = true → lineEvent l ∈ s.evq →
    exec (deliveryOf l) s = .next { s with resp := none }

/-- 42_dispatcher.md R126, 60_exceptions.md R163: a delivery on an active line to a full queue, where it does not merge,
sets FAULT to F_EVQ_OVERFLOW, answers nothing and leaves EVQ as it was. -/
def Obligations.DeliveryToFullQueueFaults : Prop :=
  ∀ s l, s.fault = none → s.lineActive l = true → ¬ (s.cfg.evCoalesce = true ∧ lineEvent l ∈ s.evq) →
    s.cfg.evqDepth = some s.evq.length →
    exec (deliveryOf l) s = .next { s with fault := some .evqOverflow, resp := none }

/-- 42_dispatcher.md R121: a delivery on an inactive line changes no state and leaves no trace. -/
def Obligations.InactiveDeliveryLeavesNoTrace : Prop :=
  ∀ s l, s.fault = none → s.active.getLsbD (lineIndex l) = false →
    exec (deliveryOf l) s = .next { s with resp := none }

/-- 42_dispatcher.md R127: a delivery that is taken answers no STATUS and no output bus and writes at most EVQ, or FAULT on
an overflow, EVQ then staying as it was; PTICKS plays no part in what it does. -/
def Obligations.DeliveryWritesOnlyQueueOrFault : Prop :=
  ∀ s s' l, exec (deliveryOf l) s = .next s' →
    s'.resp = none ∧ s'.active = s.active ∧ s'.pticks = s.pticks ∧ s'.bus = s.bus ∧ s'.inputs = s.inputs ∧
      s'.draws = s.draws ∧ s'.cfg = s.cfg ∧
      (s'.fault = none ∨ (s'.fault = some .evqOverflow ∧ s'.evq = s.evq)) ∧
      (s'.evq = s.evq ∨ s'.evq = s.evq ++ [lineEvent l]) ∧
      ∀ v, exec (deliveryOf l) { s with pticks := v } = .next { s' with pticks := v }

/-- 42_dispatcher.md R128: a delivery neither reads nor writes the other lines' bits of ACTIVE: with any other value of them
it does the same, and leaves them as they are. -/
def Obligations.LinesAreIndependent : Prop :=
  ∀ s l (v : BitVec 3), s.fault = none → v.getLsbD (lineIndex l) = s.active.getLsbD (lineIndex l) →
    ∃ s', exec (deliveryOf l) s = .next s' ∧
      exec (deliveryOf l) { s with active := v } = .next { s' with active := v }

/-- From 42_dispatcher.md R129: two pulses presented together, both lines active and nothing merging or overflowing, leave both
events in EVQ after two steps, in one order or the other. THE MODEL'S CHOICE (log 3, DESIGN CHOICE): the two pulses take the
very next two steps, before any later sample; R48 lets a step of a later sample come between. -/
def Obligations.SimultaneousPulsesQueueInSomeOrder : Prop :=
  ∀ s p later l m, s.cfg.wellFormed = true → s.fault = none → s.inputs = p :: later → p.rst = false →
    p.cmdValid = false → l ≠ m → p.irq = linePattern l ||| linePattern m →
    s.lineActive l = true → s.lineActive m = true → s.cfg.evCoalesce = false → s.cfg.evqDepth = none →
    ∃ s1 s2, step s = .next s1 ∧ step s1 = .next s2 ∧ s2.inputs = later ∧ s2.fault = none ∧
      (s2.evq = s.evq ++ [lineEvent l, lineEvent m] ∨ s2.evq = s.evq ++ [lineEvent m, lineEvent l])

/-- 42_dispatcher.md R130: LINECFG writes `D_IN[2:0]` to ACTIVE and answers OK when `D_IN[15:3]` is 0, and else answers
UNSUPPORTED and writes nothing; EVQ is untouched either way. -/
def Obligations.LineCfgSetsEnables : Prop :=
  decode (.command 0x30) = .ok .lineCfg ∧
    ∀ s, s.fault = none →
      (s.bus.dIn.toNat < 8 →
        exec .lineCfg s = .next { s with active := BitVec.ofNat 3 s.bus.dIn.toNat, resp := some ⟨.ok, none, none, none⟩ }) ∧
      (8 ≤ s.bus.dIn.toNat → exec .lineCfg s = .next { s with resp := some ⟨.unsupported, none, none, none⟩ })

/-- 42_dispatcher.md R131: LINESTAT answers OK with ACTIVE widened by zeros, and writes no state. -/
def Obligations.LineStatReadsEnables : Prop :=
  decode (.command 0x31) = .ok .lineStat ∧
    ∀ s, s.fault = none → ∃ d : DBus,
      exec .lineStat s = .next { s with resp := some ⟨.ok, none, none, some d⟩ } ∧ d.toNat = s.active.toNat

/-- 42_dispatcher.md R132: EVPOP answers OK with EMPTY from an empty queue, and else removes and returns the head. -/
def Obligations.EvPopReturnsOldestEvent : Prop :=
  decode (.command 0x32) = .ok .evPop ∧
    ∀ s, s.fault = none →
      (s.evq = [] → exec .evPop s = .next { s with resp := some ⟨.ok, none, none, some 0x0000⟩ }) ∧
      (∀ ev rest, s.evq = ev :: rest →
        exec .evPop s = .next { s with evq := rest, resp := some ⟨.ok, none, none, some ev⟩ })

/-- 42_dispatcher.md R133, from any state with all lines active: along every run with the default parameters in which no
sample resets the block or presents LINECFG, a line's events that EVPOP returned and those left in EVQ are together those
that were queued at the start and the deliveries its agent took; and every run that is no fault outcome (R164) has such a
tally. A run is one of the model's machine: its steps with nothing presented (log 13) count nothing, and it takes the agents
of one sample before the next sample's (log 3); a list of samples of one agent each is any interleaving of R48. -/
def Obligations.EventsReturnedAndQueuedEqualDeliveries : Prop :=
  ∀ n s s' l, s.cfg = Config.default → s.active = 0b111 → (∀ p ∈ s.inputs, keepsEnables p) →
    (∀ r, runTally l n s = some (s', r) → r.returned + queued l s' = queued l s + r.delivered) ∧
    (judgedRun n s = .next s' → ∃ r, runTally l n s = some (s', r))

/-! ## PeriodicRate -/

/-- 43_periodic_rate.md R146: SETRATE faults on 0 and above 1024, and else writes the truncated quotient, 1 to 1024. -/
def Obligations.SetRateStoresTruncatedDivisor : Prop :=
  decode (.command 0x40) = .ok .setRate ∧
    ∀ s, s.fault = none →
      (s.bus.dIn = 0 ∨ 1024 < s.bus.dIn.toNat →
        exec .setRate s = .next { s with fault := some .rateRange, resp := some ⟨.faulted .rateRange, none, none, none⟩ }) ∧
      (1 ≤ s.bus.dIn.toNat → s.bus.dIn.toNat ≤ 1024 →
        ∃ n : BitVec 16, exec .setRate s = .next { s with pticks := some n, resp := some ⟨.ok, none, none, none⟩ } ∧
          n.toNat = 1024 / s.bus.dIn.toNat ∧ 1 ≤ n.toNat ∧ n.toNat ≤ 1024)

/-- 43_periodic_rate.md R147: GETRATE faults when PTICKS holds no value, and else answers the truncated quotient. -/
def Obligations.GetRateReadsTruncatedRate : Prop :=
  decode (.command 0x41) = .ok .getRate ∧
    ∀ s, s.fault = none → PticksLegal s →
      (s.pticks = none →
        exec .getRate s = .next { s with fault := some .rateUnset, resp := some ⟨.faulted .rateUnset, none, none, none⟩ }) ∧
      (∀ n, s.pticks = some n →
        ∃ d : DBus, exec .getRate s = .next { s with resp := some ⟨.ok, none, none, some d⟩ } ∧
          d.toNat = 1024 / n.toNat ∧ 1 ≤ d.toNat ∧ d.toNat ≤ 1024)

/-- The model's own stop (log 12): in a state that holds the divisor 0, which R146 never writes, GETRATE stops by name. -/
def Obligations.GetRateOfZeroDivisorStops : Prop :=
  ∀ s, s.fault = none → s.pticks = some 0 → exec .getRate s = .fault .zeroDivisor

/-- From 43_periodic_rate.md R148: SETRATE then GETRATE returns the rate, exactly for a divisor of 1024 and truncated twice for
any other accepted rate. THE MODEL'S CHOICE (log 18, DESIGN CHOICE, unsafe for RATE_SET_GET): no step of another agent or
caller comes between the two commands; R50 allows one, and another SETRATE there would change the result. -/
def Obligations.RateRoundTripTruncatesTwice : Prop :=
  ∀ s (h : DBus), s.fault = none → 1 ≤ h.toNat → h.toNat ≤ 1024 →
    ∃ (s' : State) (n : BitVec 16) (d : DBus), rateSetGet h s = .next s' ∧ s'.pticks = some n ∧ s'.dOutPort = some d ∧
      d.toNat = 1024 / (1024 / h.toNat) ∧
      (1024 % h.toNat = 0 → d = h ∧ h.toNat * n.toNat = 1024) ∧
      (1024 % h.toNat ≠ 0 → h.toNat ≤ d.toNat ∧ h.toNat * n.toNat < 1024)

/-! ## Status, faults and frames -/

/-- 60_exceptions.md R160: the STATUS codes; no other code is ever driven. -/
def Obligations.StatusCodesAreAsListed : Prop :=
  Status.bits .ok = 0x0 ∧ Status.bits .unsupported = 0x1 ∧ Status.bits (.faulted .adjDomain) = 0x8 ∧
    Status.bits (.faulted .adjRange) = 0x9 ∧ Status.bits (.faulted .rateRange) = 0xA ∧
    Status.bits (.faulted .rateUnset) = 0xB ∧ Status.bits (.faulted .evqOverflow) = 0xC ∧
    ∀ (s : State) b, s.statusPort = some b → b ∈ ([0x0, 0x1, 0x8, 0x9, 0xA, 0xB, 0xC] : List (BitVec 4))

/-- 60_exceptions.md R162, R167: a step sets FAULT to a code exactly when the table's cause of it holds. -/
def Obligations.FaultsHaveExactlyTheListedCauses : Prop :=
  ∀ s i c, s.fault = none →
    ((∃ s', exec i s = .next s' ∧ s'.fault = some c) ↔ FaultCause c i s)

/-- 60_exceptions.md R163: the fault entry is precise: FAULT takes the code, a command answers STATUS = code with no output
value, a delivery answers nothing, and nothing else is written. -/
def Obligations.FaultEntryIsPrecise : Prop :=
  ∀ s s' i c, exec i s = .next s' → s'.fault = some c →
    s.fault = none ∧
      s' = { s with fault := some c,
                    resp := if isDelivery i = true then none else some ⟨.faulted c, none, none, none⟩ } ∧
      s'.faultWire = true

/-- 60_exceptions.md R164: while FAULT holds a code no agent has a step: every instruction stops by name, and so does the
machine until `rst` is presented. -/
def Obligations.FaultedBlockHasNoStep : Prop :=
  (∀ i s c, s.fault = some c → exec i s = .fault (.noStep c)) ∧
    ∀ s c, s.cfg.wellFormed = true → s.fault = some c → (∀ p ∈ s.inputs, p.rst = false) → step s = .fault (.noStep c)

/-- 93 U13, R164, R180: what is presented to a faulted block before `rst` is lost, and the next step is the reset. THE MODEL'S
CHOICE (log 20): the lost samples and the reset are one step of the machine. THE MODEL'S READING (log 17, DEDUCED): the operand
buses, the later samples, the count of free choices and the parameters stay. -/
def Obligations.FaultedBlockLosesItsInputs : Prop :=
  ∀ s lost p later c, s.cfg.wellFormed = true → s.fault = some c → s.inputs = lost ++ p :: later →
    (∀ q ∈ lost, q.rst = false) → p.rst = true →
    step s = .next { s with inputs := later, active := 0b000, pticks := none, evq := [], fault := none, resp := none }

/-- 60_exceptions.md R164: the faulted state is a fault outcome that refutes any claim about the run: a run on which FAULT
holds a code anywhere satisfies no claim, and its judged outcome is a fault. THE MODEL'S READING (log 5, DEDUCED): a reset that
a later step of the same run takes does not save the run. -/
def Obligations.FaultOnTheRunRefutesEveryClaim : Prop :=
  ∀ k m s t c, Sys2Proof.core.run k s = .next t → t.fault = some c →
    (∀ P : State → Prop, ¬ RunSatisfies (k + m) s P) ∧ ∃ d, judgedRun (k + m) s = .fault (.noStep d)

/-- A run with no fault on it is judged by the state it ends in: it satisfies exactly the claims its last state does (R164,
log 5). -/
def Obligations.FaultFreeRunSatisfiesWhatItsEndDoes : Prop :=
  ∀ n s t, Sys2Proof.core.run n s = .next t →
    (∀ k u, k ≤ n → Sys2Proof.core.run k s = .next u → Safe u) →
    ∀ P : State → Prop, RunSatisfies n s P ↔ P t

/-- 42_dispatcher.md R126, 60_exceptions.md R164, 92 D12: a run that takes an overflowing delivery is refuted, not given a
dropped or held event. THE MODEL'S READING (log 5, DEDUCED): this holds of every run of one step or more, since a reset that a
later step of the same run takes does not save the run. -/
def Obligations.OverflowRefutesTheRun : Prop :=
  ∀ n s p later l, s.cfg.wellFormed = true → s.fault = none → s.inputs = p :: later → p.rst = false →
    p.cmdValid = false → p.irq = linePattern l → s.lineActive l = true →
    ¬ (s.cfg.evCoalesce = true ∧ lineEvent l ∈ s.evq) → s.cfg.evqDepth = some s.evq.length →
    judgedRun (n + 1) s = .fault (.noStep .evqOverflow) ∧ ∀ P : State → Prop, ¬ RunSatisfies (n + 1) s P

/-- 10_state.md R28: FAULT is `none` at reset, a step changes it only by a reset (to `none`) or by the fault entry of the
instruction it runs (from `none` to the code whose cause holds), and the `fault` wire is high exactly when it is not
`none`. -/
def Obligations.FaultRegisterChangesOnlyByEntryOrReset : Prop :=
  State.reset.fault = none ∧ (∀ s : State, s.faultWire = true ↔ s.fault ≠ none) ∧
    ∀ s s', step s = .next s' →
      s'.fault = s.fault ∨
        (s'.fault = none ∧ ∃ p ∈ s.inputs, p.rst = true) ∨
        (s.fault = none ∧ ∃ w s1 i c, fetch s = .turn w s1 ∧ decode w = .ok i ∧ exec i s1 = .next s' ∧
          FaultCause c i s1 ∧ s'.fault = some c)

/-- 10_state.md R30: a command that answers OK gives a value on exactly the output buses its rule names; UNSUPPORTED and
the fault codes give none. A delivery answers nothing. -/
def Obligations.CommandDrivesOnlyItsOutputs : Prop :=
  ∀ s s' i, exec i s = .next s' →
    (isDelivery i = true → s'.resp = none) ∧
    (isDelivery i = false → ∃ r, s'.resp = some r ∧
      (r.status = .ok →
        (r.tOut.isSome = true ↔ i = .decode ∨ i = .advance ∨ i = .retreat) ∧ (r.bOut.isSome = true ↔ i = .encode) ∧
          (r.dOut.isSome = true ↔ i = .lineStat ∨ i = .evPop ∨ i = .getRate)) ∧
      (r.status ≠ .ok → r.tOut = none ∧ r.bOut = none ∧ r.dOut = none))

/-- The frame of every instruction (R26, R27, R29): only LINECFG writes ACTIVE, only SETRATE writes PTICKS, only deliveries
and EVPOP write EVQ (a delivery appends at most one word, EVPOP removes at most the head), FAULT changes only by a fault
entry; the operand buses, the presented inputs, the count of choices and the parameters stay. -/
def Obligations.FrameOfEveryInstruction : Prop :=
  ∀ s s' i, exec i s = .next s' →
    (i ≠ .lineCfg → s'.active = s.active) ∧ (i ≠ .setRate → s'.pticks = s.pticks) ∧
      (i ≠ .evPop → isDelivery i = false → s'.evq = s.evq) ∧
      (i = .evPop → s'.evq = s.evq.tail) ∧
      (isDelivery i = true → s'.evq = s.evq ∨ ∃ ev, s'.evq = s.evq ++ [ev]) ∧
      (s'.fault = s.fault ∨ ∃ c, FaultCause c i s ∧ s'.fault = some c) ∧
      s'.bus = s.bus ∧ s'.inputs = s.inputs ∧ s'.draws = s.draws ∧ s'.cfg = s.cfg

/-- 20_memory.md R45: every command but EVPOP is idempotent: when it does not fault, repeating it with the same operands
answers the same and leaves the same state. -/
def Obligations.CommandsButEvPopAreIdempotent : Prop :=
  ∀ s s' i, isDelivery i = false → i ≠ .evPop → exec i s = .next s' → s'.fault = none → exec i s' = .next s'

/-- 20_memory.md R45: the six reading commands write no block state when they do not fault. -/
def Obligations.ReadingCommandsWriteNoState : Prop :=
  ∀ s s' i, i ∈ ([.decode, .encode, .advance, .retreat, .lineStat, .getRate] : List Instr) → exec i s = .next s' →
    s'.fault = none → s' = { s with resp := s'.resp }
end

