-- ==== Sys2Proof/Laws/Operands.lean ====
section
/-! SUPPORT. Reading back what a bus was built from, and the value of a bus as a number: one lemma per layout. -/

namespace Sys2Proof.Machine
/-- The number a concatenation is. -/
theorem toNat_append_add {m n : Nat} (x : BitVec m) (y : BitVec n) :
    (x ++ y).toNat = x.toNat * 2 ^ n + y.toNat := by
  rw [BitVec.toNat_append, ← Nat.shiftLeft_add_eq_or_of_lt y.isLt, Nat.shiftLeft_eq]

section Fields
variable (y : BitVec 16) (mo d h mi s : Byte)
theorem tBus_toNat : (tBus y mo d h mi s).toNat =
    y.toNat + 2 ^ 16 * mo.toNat + 2 ^ 24 * d.toNat + 2 ^ 32 * h.toNat + 2 ^ 40 * mi.toNat + 2 ^ 48 * s.toNat := by
  unfold tBus
  rw [toNat_append_add (s ++ mi ++ h ++ d ++ mo) y, toNat_append_add (s ++ mi ++ h ++ d) mo,
    toNat_append_add (s ++ mi ++ h) d, toNat_append_add (s ++ mi) h, toNat_append_add s mi]
  omega
@[simp] theorem tYear_tBus : tYear (tBus y mo d h mi s) = y := by
  apply BitVec.eq_of_toNat_eq
  simp only [tYear, BitVec.extractLsb'_toNat, tBus_toNat, Nat.shiftRight_eq_div_pow]
  omega

@[simp] theorem tMonth_tBus : tMonth (tBus y mo d h mi s) = mo := by
  apply BitVec.eq_of_toNat_eq
  simp only [tMonth, BitVec.extractLsb'_toNat, tBus_toNat, Nat.shiftRight_eq_div_pow]
  omega

@[simp] theorem tDay_tBus : tDay (tBus y mo d h mi s) = d := by
  apply BitVec.eq_of_toNat_eq
  simp only [tDay, BitVec.extractLsb'_toNat, tBus_toNat, Nat.shiftRight_eq_div_pow]
  omega

@[simp] theorem tHour_tBus : tHour (tBus y mo d h mi s) = h := by
  apply BitVec.eq_of_toNat_eq
  simp only [tHour, BitVec.extractLsb'_toNat, tBus_toNat, Nat.shiftRight_eq_div_pow]
  omega

@[simp] theorem tMinute_tBus : tMinute (tBus y mo d h mi s) = mi := by
  apply BitVec.eq_of_toNat_eq
  simp only [tMinute, BitVec.extractLsb'_toNat, tBus_toNat, Nat.shiftRight_eq_div_pow]
  omega

@[simp] theorem tSecond_tBus : tSecond (tBus y mo d h mi s) = s := by
  apply BitVec.eq_of_toNat_eq
  simp only [tSecond, BitVec.extractLsb'_toNat, tBus_toNat, Nat.shiftRight_eq_div_pow]
  omega

end Fields

@[simp] theorem tBus_fields (t : TBus) : tBus (tYear t) (tMonth t) (tDay t) (tHour t) (tMinute t) (tSecond t) = t := by
  apply BitVec.eq_of_toNat_eq
  rw [tBus_toNat]
  simp only [tYear, tMonth, tDay, tHour, tMinute, tSecond, BitVec.extractLsb'_toNat, Nat.shiftRight_eq_div_pow]
  omega

theorem bBus_toNat (f : Fin 7 → Byte) : (bBus f).toNat =
    (f 0).toNat + 2 ^ 8 * (f 1).toNat + 2 ^ 16 * (f 2).toNat + 2 ^ 24 * (f 3).toNat + 2 ^ 32 * (f 4).toNat
      + 2 ^ 40 * (f 5).toNat + 2 ^ 48 * (f 6).toNat := by
  unfold bBus
  rw [toNat_append_add (f 6 ++ f 5 ++ f 4 ++ f 3 ++ f 2 ++ f 1) (f 0), toNat_append_add (f 6 ++ f 5 ++ f 4 ++ f 3 ++ f 2) (f 1),
    toNat_append_add (f 6 ++ f 5 ++ f 4 ++ f 3) (f 2), toNat_append_add (f 6 ++ f 5 ++ f 4) (f 3),
    toNat_append_add (f 6 ++ f 5) (f 4), toNat_append_add (f 6) (f 5)]
  omega

@[simp] theorem bByte_bBus (f : Fin 7 → Byte) (k : Fin 7) : bByte (bBus f) k = f k := by
  apply BitVec.eq_of_toNat_eq
  have h0 := (f 0).isLt; have h1 := (f 1).isLt; have h2 := (f 2).isLt; have h3 := (f 3).isLt
  have h4 := (f 4).isLt; have h5 := (f 5).isLt; have h6 := (f 6).isLt
  fin_cases k <;> simp only [bByte, BitVec.extractLsb'_toNat, bBus_toNat, Nat.shiftRight_eq_div_pow] <;> simp <;> omega

@[simp] theorem bBus_bytes (b : BBus) : bBus (bByte b) = b := by
  apply BitVec.eq_of_toNat_eq
  rw [bBus_toNat]
  simp only [bByte, BitVec.extractLsb'_toNat, Nat.shiftRight_eq_div_pow]
  simp
  omega

/-- The bytes ENCODE writes are the bytes of the T bus, in the block's order (R61, R62, R85). -/
theorem timeByte_eq (t : TBus) (k : Fin 7) : timeByte t k = t.extractLsb' (8 * k.val) 8 := by
  apply BitVec.eq_of_toNat_eq
  fin_cases k <;> simp only [timeByte, tYear, tMonth, tDay, tHour, tMinute, tSecond, BitVec.extractLsb'_toNat,
    Nat.shiftRight_eq_div_pow] <;> simp
  omega

/-- A calendar time whose fields fit their widths is read back from the bus it is put on. -/
theorem calOfBus_busOfCal {t : CalTime} (hy : t.year < 65536) (hmo : t.month < 256) (hd : t.day < 256)
    (hh : t.hour < 256) (hmi : t.minute < 256) (hs : t.second < 256) : calOfBus (busOfCal t) = t := by
  simp [calOfBus, busOfCal, Nat.mod_eq_of_lt, hy, hmo, hd, hh, hmi, hs]

/-- Every T-bus value is the bus of its integers. -/
theorem busOfCal_calOfBus (t : TBus) : busOfCal (calOfBus t) = t := by
  simp [calOfBus, busOfCal]

/-- ENCODE reads back byte for byte (R85). -/
@[simp] theorem bByte_encodeBlock (c : Config) (t : TBus) (b : BBus) (k : Fin 7) :
    bByte (encodeBlock c t b) k = mergeByte c t b k := bByte_bBus _ k

end Sys2Proof.Machine
end

