-- ==== Sys2Proof/Laws/State.lean ====
section
/-! SUPPORT. One lemma per field of State per update, true by rfl, so that no proof unfolds a record update. -/

namespace Sys2Proof.Machine

@[simp] theorem State.setActive_active (s : State) (v : BitVec 3) : (s.setActive v).active = v := rfl
@[simp] theorem State.setActive_pticks (s : State) (v : BitVec 3) : (s.setActive v).pticks = s.pticks := rfl
@[simp] theorem State.setActive_evq (s : State) (v : BitVec 3) : (s.setActive v).evq = s.evq := rfl
@[simp] theorem State.setActive_fault (s : State) (v : BitVec 3) : (s.setActive v).fault = s.fault := rfl
@[simp] theorem State.setActive_resp (s : State) (v : BitVec 3) : (s.setActive v).resp = s.resp := rfl
@[simp] theorem State.setActive_bus (s : State) (v : BitVec 3) : (s.setActive v).bus = s.bus := rfl
@[simp] theorem State.setActive_inputs (s : State) (v : BitVec 3) : (s.setActive v).inputs = s.inputs := rfl
@[simp] theorem State.setActive_draws (s : State) (v : BitVec 3) : (s.setActive v).draws = s.draws := rfl
@[simp] theorem State.setActive_cfg (s : State) (v : BitVec 3) : (s.setActive v).cfg = s.cfg := rfl

@[simp] theorem State.setPticks_active (s : State) (v : BitVec 16) : (s.setPticks v).active = s.active := rfl
@[simp] theorem State.setPticks_pticks (s : State) (v : BitVec 16) : (s.setPticks v).pticks = some v := rfl
@[simp] theorem State.setPticks_evq (s : State) (v : BitVec 16) : (s.setPticks v).evq = s.evq := rfl
@[simp] theorem State.setPticks_fault (s : State) (v : BitVec 16) : (s.setPticks v).fault = s.fault := rfl
@[simp] theorem State.setPticks_resp (s : State) (v : BitVec 16) : (s.setPticks v).resp = s.resp := rfl
@[simp] theorem State.setPticks_bus (s : State) (v : BitVec 16) : (s.setPticks v).bus = s.bus := rfl
@[simp] theorem State.setPticks_inputs (s : State) (v : BitVec 16) : (s.setPticks v).inputs = s.inputs := rfl
@[simp] theorem State.setPticks_draws (s : State) (v : BitVec 16) : (s.setPticks v).draws = s.draws := rfl
@[simp] theorem State.setPticks_cfg (s : State) (v : BitVec 16) : (s.setPticks v).cfg = s.cfg := rfl

@[simp] theorem State.setEvq_active (s : State) (q : List EventWord) : (s.setEvq q).active = s.active := rfl
@[simp] theorem State.setEvq_pticks (s : State) (q : List EventWord) : (s.setEvq q).pticks = s.pticks := rfl
@[simp] theorem State.setEvq_evq (s : State) (q : List EventWord) : (s.setEvq q).evq = q := rfl
@[simp] theorem State.setEvq_fault (s : State) (q : List EventWord) : (s.setEvq q).fault = s.fault := rfl
@[simp] theorem State.setEvq_resp (s : State) (q : List EventWord) : (s.setEvq q).resp = s.resp := rfl
@[simp] theorem State.setEvq_bus (s : State) (q : List EventWord) : (s.setEvq q).bus = s.bus := rfl
@[simp] theorem State.setEvq_inputs (s : State) (q : List EventWord) : (s.setEvq q).inputs = s.inputs := rfl
@[simp] theorem State.setEvq_draws (s : State) (q : List EventWord) : (s.setEvq q).draws = s.draws := rfl
@[simp] theorem State.setEvq_cfg (s : State) (q : List EventWord) : (s.setEvq q).cfg = s.cfg := rfl

@[simp] theorem State.setFault_active (s : State) (c : FaultCode) : (s.setFault c).active = s.active := rfl
@[simp] theorem State.setFault_pticks (s : State) (c : FaultCode) : (s.setFault c).pticks = s.pticks := rfl
@[simp] theorem State.setFault_evq (s : State) (c : FaultCode) : (s.setFault c).evq = s.evq := rfl
@[simp] theorem State.setFault_fault (s : State) (c : FaultCode) : (s.setFault c).fault = some c := rfl
@[simp] theorem State.setFault_resp (s : State) (c : FaultCode) : (s.setFault c).resp = s.resp := rfl
@[simp] theorem State.setFault_bus (s : State) (c : FaultCode) : (s.setFault c).bus = s.bus := rfl
@[simp] theorem State.setFault_inputs (s : State) (c : FaultCode) : (s.setFault c).inputs = s.inputs := rfl
@[simp] theorem State.setFault_draws (s : State) (c : FaultCode) : (s.setFault c).draws = s.draws := rfl
@[simp] theorem State.setFault_cfg (s : State) (c : FaultCode) : (s.setFault c).cfg = s.cfg := rfl

@[simp] theorem State.respond_active (s : State) (r : Response) : (s.respond r).active = s.active := rfl
@[simp] theorem State.respond_pticks (s : State) (r : Response) : (s.respond r).pticks = s.pticks := rfl
@[simp] theorem State.respond_evq (s : State) (r : Response) : (s.respond r).evq = s.evq := rfl
@[simp] theorem State.respond_fault (s : State) (r : Response) : (s.respond r).fault = s.fault := rfl
@[simp] theorem State.respond_resp (s : State) (r : Response) : (s.respond r).resp = some r := rfl
@[simp] theorem State.respond_bus (s : State) (r : Response) : (s.respond r).bus = s.bus := rfl
@[simp] theorem State.respond_inputs (s : State) (r : Response) : (s.respond r).inputs = s.inputs := rfl
@[simp] theorem State.respond_draws (s : State) (r : Response) : (s.respond r).draws = s.draws := rfl
@[simp] theorem State.respond_cfg (s : State) (r : Response) : (s.respond r).cfg = s.cfg := rfl

@[simp] theorem State.silent_active (s : State) : (s.silent).active = s.active := rfl
@[simp] theorem State.silent_pticks (s : State) : (s.silent).pticks = s.pticks := rfl
@[simp] theorem State.silent_evq (s : State) : (s.silent).evq = s.evq := rfl
@[simp] theorem State.silent_fault (s : State) : (s.silent).fault = s.fault := rfl
@[simp] theorem State.silent_resp (s : State) : (s.silent).resp = none := rfl
@[simp] theorem State.silent_bus (s : State) : (s.silent).bus = s.bus := rfl
@[simp] theorem State.silent_inputs (s : State) : (s.silent).inputs = s.inputs := rfl
@[simp] theorem State.silent_draws (s : State) : (s.silent).draws = s.draws := rfl
@[simp] theorem State.silent_cfg (s : State) : (s.silent).cfg = s.cfg := rfl

@[simp] theorem State.resetBlock_active (s : State) : (s.resetBlock).active = 0b000 := rfl
@[simp] theorem State.resetBlock_pticks (s : State) : (s.resetBlock).pticks = none := rfl
@[simp] theorem State.resetBlock_evq (s : State) : (s.resetBlock).evq = [] := rfl
@[simp] theorem State.resetBlock_fault (s : State) : (s.resetBlock).fault = none := rfl
@[simp] theorem State.resetBlock_resp (s : State) : (s.resetBlock).resp = none := rfl
@[simp] theorem State.resetBlock_bus (s : State) : (s.resetBlock).bus = s.bus := rfl
@[simp] theorem State.resetBlock_inputs (s : State) : (s.resetBlock).inputs = s.inputs := rfl
@[simp] theorem State.resetBlock_draws (s : State) : (s.resetBlock).draws = s.draws := rfl
@[simp] theorem State.resetBlock_cfg (s : State) : (s.resetBlock).cfg = s.cfg := rfl

end Sys2Proof.Machine
end

