-- ==== Sys2Proof/Laws/Ops.lean ====
section
/-! SUPPORT. One lemma per shared operation that says everything it can do when it answers a next state. -/

namespace Sys2Proof.Machine

theorem whenLive_live {s : State} (h : s.fault = none) (k : Host.Outcome State Fault Refusal) : whenLive s k = k := by
  simp [whenLive, h]

theorem whenLive_faulted {s : State} {c : FaultCode} (h : s.fault = some c) (k : Host.Outcome State Fault Refusal) :
    whenLive s k = .fault (.noStep c) := by
  simp [whenLive, h]

/-- A live state answers what the meaning answers; a faulted one never answers a next state. -/
theorem whenLive_next {s s' : State} {k : Host.Outcome State Fault Refusal} (h : whenLive s k = .next s') :
    s.fault = none ∧ k = .next s' := by
  cases hf : s.fault with
  | none => exact ⟨rfl, by simpa [whenLive, hf] using h⟩
  | some c => simp [whenLive, hf] at h

theorem raiseOnCommand_next {c : FaultCode} {s s' : State} (h : raiseOnCommand c s = .next s') :
    s' = (s.setFault c).respond (Response.faulted c) := by
  simpa [raiseOnCommand] using h.symm

theorem raiseOnDelivery_next {c : FaultCode} {s s' : State} (h : raiseOnDelivery c s = .next s') :
    s' = (s.setFault c).silent := by
  simpa [raiseOnDelivery] using h.symm

theorem evqFull_iff (s : State) : s.evqFull = true ↔ s.cfg.evqDepth = some s.evq.length := by
  unfold State.evqFull
  cases s.cfg.evqDepth with
  | none => simp
  | some n => exact ⟨fun h => congrArg some (beq_iff_eq.mp h).symm, fun h => beq_iff_eq.mpr (Option.some.inj h).symm⟩

/-- An enqueue always answers a next state: merged, overflowed, or appended. -/
theorem enqueue_next {ev : EventWord} {s s' : State} (h : enqueue ev s = .next s') :
    (s.cfg.evCoalesce = true ∧ ev ∈ s.evq ∧ s' = s.silent) ∨
      (¬ (s.cfg.evCoalesce = true ∧ ev ∈ s.evq) ∧ s.cfg.evqDepth = some s.evq.length ∧
        s' = (s.setFault .evqOverflow).silent) ∨
      (¬ (s.cfg.evCoalesce = true ∧ ev ∈ s.evq) ∧ s.cfg.evqDepth ≠ some s.evq.length ∧
        s' = (s.setEvq (s.evq ++ [ev])).silent) := by
  unfold enqueue at h
  split at h
  · rename_i hm
    simp only [Bool.and_eq_true, List.contains_iff_mem] at hm
    exact .inl ⟨hm.1, hm.2, by simpa using h.symm⟩
  · rename_i hm
    simp only [Bool.and_eq_true, List.contains_iff_mem] at hm
    split at h
    · rename_i hf
      exact .inr (.inl ⟨hm, (evqFull_iff s).mp hf, raiseOnDelivery_next h⟩)
    · rename_i hf
      exact .inr (.inr ⟨hm, fun e => hf ((evqFull_iff s).mpr e), by simpa using h.symm⟩)

/-- A delivery always answers a next state: nothing on an inactive line, an enqueue on an active one. -/
theorem deliver_next {l : Line} {s s' : State} (h : deliver l s = .next s') :
    (s.lineActive l = false ∧ s' = s.silent) ∨ (s.lineActive l = true ∧ enqueue (lineEvent l) s = .next s') := by
  unfold deliver at h
  split at h
  · rename_i ha
    exact .inr ⟨ha, h⟩
  · rename_i ha
    exact .inl ⟨by simpa using ha, by simpa using h.symm⟩

/-- The three ways ADVANCE and RETREAT end. -/
theorem adjust_next {edge : CalTime} {f : CalTime → CalTime} {s s' : State} (h : adjust edge f s = .next s') :
    (validTime s.cfg.yearMax (calOfBus s.bus.tIn) = false ∧
        s' = (s.setFault .adjDomain).respond (Response.faulted .adjDomain)) ∨
      (validTime s.cfg.yearMax (calOfBus s.bus.tIn) = true ∧ calOfBus s.bus.tIn = edge ∧
        s' = (s.setFault .adjRange).respond (Response.faulted .adjRange)) ∨
      (validTime s.cfg.yearMax (calOfBus s.bus.tIn) = true ∧ calOfBus s.bus.tIn ≠ edge ∧
        s' = s.respond (Response.time (busOfCal (f (calOfBus s.bus.tIn))))) := by
  unfold adjust at h
  split at h
  · rename_i hv
    split at h
    · rename_i he
      exact .inr (.inl ⟨hv, he, raiseOnCommand_next h⟩)
    · rename_i he
      exact .inr (.inr ⟨hv, he, by simpa using h.symm⟩)
  · rename_i hv
    exact .inl ⟨by simpa using hv, raiseOnCommand_next h⟩

/-- EVPOP's word and rest put the queue together again, unless it was empty. -/
theorem popEvent_cases (q : List EventWord) :
    (q = [] ∧ popEvent q = (emptyEvent, [])) ∨ ∃ e rest, q = e :: rest ∧ popEvent q = (e, rest) := by
  cases q with
  | nil => exact .inl ⟨rfl, rfl⟩
  | cons e rest => exact .inr ⟨e, rest, rfl, rfl⟩

end Sys2Proof.Machine
end

