-- ==== Sys2Proof/Laws/PerInstr.lean ====
section
/-! SUPPORT. Statements made per instruction. -/

namespace Sys2Proof.Laws.PortWords

/-- An instruction is well formed, its word is one an agent can present in one step, and the word decodes to it. -/
def Statement (i : Instr) : Prop :=
  i.wellFormed = true ∧ (encode i).wellFormed = true ∧ Sys2Proof.decode (encode i) = .ok i

theorem decode : Statement .decode := ⟨rfl, rfl, rfl⟩
theorem encode : Statement .encode := ⟨rfl, rfl, rfl⟩
theorem advance : Statement .advance := ⟨rfl, rfl, rfl⟩
theorem retreat : Statement .retreat := ⟨rfl, rfl, rfl⟩
theorem lineCfg : Statement .lineCfg := ⟨rfl, rfl, rfl⟩
theorem lineStat : Statement .lineStat := ⟨rfl, rfl, rfl⟩
theorem evPop : Statement .evPop := ⟨rfl, rfl, rfl⟩
theorem setRate : Statement .setRate := ⟨rfl, rfl, rfl⟩
theorem getRate : Statement .getRate := ⟨rfl, rfl, rfl⟩
theorem irqAlarm : Statement .irqAlarm := ⟨rfl, rfl, rfl⟩
theorem irqTick : Statement .irqTick := ⟨rfl, rfl, rfl⟩
theorem irqPeriodic : Statement .irqPeriodic := ⟨rfl, rfl, rfl⟩

end Sys2Proof.Laws.PortWords
end

