-- ==== Sys2Proof/Laws/Step.lean ====
section
/-! SUPPORT. What a step can do, said once: the cases of fetch, of exec and of step. -/

namespace Sys2Proof.Machine

open Sys2Proof.Safety

@[simp] theorem nextOf_next (s : State) : nextOf (.next s) = some s := rfl
@[simp] theorem nextOf_fault (f : Fault) : nextOf (.fault f) = none := rfl
@[simp] theorem nextOf_refused (r : Refusal) : nextOf (.refused r) = none := rfl

theorem nextOf_eq_some {r : Host.Outcome State Fault Refusal} {s : State} : nextOf r = some s ↔ r = .next s := by
  cases r <;> simp [nextOf]

/-- The agent chosen among several is one of them. -/
theorem chosenAgent_mem (draw : Nat) (a b : Agent) (more : List Agent) :
    chosenAgent draw a b more ∈ a :: b :: more := by
  have hlt : Config.freeChoice draw % (more.length + 2) < (a :: b :: more).length := by
    have := Nat.mod_lt (Config.freeChoice draw) (by omega : 0 < more.length + 2)
    simp only [List.length_cons]
    omega
  simp only [chosenAgent, List.getD_eq_getElem?_getD, List.getElem?_eq_getElem hlt, Option.getD_some]
  exact List.getElem_mem hlt

/-- The first sample with `rst`, what is lost before it, and what comes after it. -/
theorem afterReset_eq_some {l later : List InPorts} (h : afterReset l = some later) :
    ∃ lost p, l = lost ++ p :: later ∧ (∀ q ∈ lost, q.rst = false) ∧ p.rst = true := by
  induction l with
  | nil => cases h
  | cons p l ih =>
    unfold afterReset at h
    split at h
    · rename_i hp
      cases h
      exact ⟨[], p, rfl, by simp, hp⟩
    · rename_i hp
      obtain ⟨lost, q, rfl, hl, hq⟩ := ih h
      refine ⟨p :: lost, q, rfl, ?_, hq⟩
      rintro r (_ | ⟨_, hr⟩)
      · simpa using hp
      · exact hl r hr

theorem afterReset_append {lost later : List InPorts} {p : InPorts} (hl : ∀ q ∈ lost, q.rst = false)
    (hp : p.rst = true) : afterReset (lost ++ p :: later) = some later := by
  induction lost with
  | nil => simp [afterReset, hp]
  | cons q lost ih => simp_all [afterReset]

theorem afterReset_eq_none {l : List InPorts} : afterReset l = none ↔ ∀ p ∈ l, p.rst = false := by
  induction l with
  | nil => simp [afterReset]
  | cons p l ih => cases hp : p.rst <;> simp [afterReset, hp, ih]

theorem fetch_live {s : State} (h : s.fault = none) : fetch s = fetchLive s := by
  simp [fetch, h]

theorem fetch_faulted {s : State} {c : FaultCode} (h : s.fault = some c) : fetch s = fetchFaulted c s := by
  simp [fetch, h]

/-- The fetched turn of a sample, for some agent that has one pending; the draws may have advanced. -/
theorem fetch_turn {s s' : State} {w : PortWord} (h : fetch s = .turn w s') :
    s.fault = none ∧ ∃ p later a n, s.inputs = p :: later ∧ p.rst = false ∧ a ∈ pendingAgents p ∧ w = agentWord p a ∧
      s' = { s with inputs := remaining p a later, bus := agentBuses s p a, draws := n } := by
  cases hf : s.fault with
  | some c =>
    rw [fetch_faulted hf, fetchFaulted] at h
    split at h <;> cases h
  | none =>
    rw [fetch_live hf, fetchLive] at h
    refine ⟨rfl, ?_⟩
    split at h
    · cases h
    · rename_i p later hin
      split at h
      · cases h
      · rename_i hr
        split at h
        · cases h
        · rename_i a ha
          simp only [giveTurn, Fetched.turn.injEq] at h
          refine ⟨p, later, a, s.draws, hin, by simpa using hr, by simp [ha], h.1.symm, ?_⟩
          rw [← h.2, hf]
        · rename_i a b more ha
          simp only [giveTurn, Fetched.turn.injEq] at h
          refine ⟨p, later, chosenAgent s.draws a b more, s.draws + 1, hin, by simpa using hr, ?_, h.1.symm, ?_⟩
          · rw [ha]
            exact chosenAgent_mem _ _ _ _
          · rw [← h.2, hf]
            cases chosenAgent s.draws a b more <;> rfl

/-- The quiet cases of a fetch: a reset (in a faulted block after what is lost), or nothing presented to a live block. -/
theorem fetch_quiet {s s' : State} (h : fetch s = .quiet s') :
    (∃ lost p later, s.inputs = lost ++ p :: later ∧ p.rst = true ∧ (∀ q ∈ lost, q.rst = false) ∧
        (s.fault = none → lost = []) ∧ s' = State.resetBlock { s with inputs := later }) ∨
      (s.fault = none ∧
        ((s.inputs = [] ∧ s' = s.silent) ∨
          ∃ p later, s.inputs = p :: later ∧ p.rst = false ∧ pendingAgents p = [] ∧
            s' = State.silent { s with inputs := later })) := by
  cases hf : s.fault with
  | some c =>
    rw [fetch_faulted hf, fetchFaulted] at h
    split at h
    · cases h
    · rename_i later ha
      obtain ⟨lost, p, hin, hl, hp⟩ := afterReset_eq_some ha
      exact .inl ⟨lost, p, later, hin, hp, hl, nofun, by simpa [hf] using h.symm⟩
  | none =>
    rw [fetch_live hf, fetchLive] at h
    split at h
    · rename_i hin
      exact .inr ⟨rfl, .inl ⟨hin, by simpa using h.symm⟩⟩
    · rename_i p later hin
      split at h
      · rename_i hr
        exact .inl ⟨[], p, later, hin, hr, by simp, fun _ => rfl, by simpa [hf] using h.symm⟩
      · rename_i hr
        split at h
        · rename_i ha
          exact .inr ⟨rfl, .inr ⟨p, later, hin, by simpa using hr, ha, by simpa [hf] using h.symm⟩⟩
        · simp [giveTurn] at h
        · simp [giveTurn] at h

/-- A fetch is stuck exactly in a faulted block to which no reset is presented (R164). -/
theorem fetch_stuck {s : State} {c : FaultCode} :
    fetch s = .stuck c ↔ s.fault = some c ∧ ∀ p ∈ s.inputs, p.rst = false := by
  constructor
  · intro h
    cases hf : s.fault with
    | none =>
      rw [fetch_live hf, fetchLive] at h
      split at h
      · cases h
      · split at h
        · cases h
        · split at h <;> simp [giveTurn] at h
    | some d =>
      rw [fetch_faulted hf, fetchFaulted] at h
      split at h
      · rename_i ha
        cases h
        exact ⟨rfl, afterReset_eq_none.mp ha⟩
      · cases h
  · rintro ⟨hf, hi⟩
    rw [fetch_faulted hf, fetchFaulted, afterReset_eq_none.mpr hi]

/-- Everything a machine step can do when it answers a next state. -/
theorem step_next {s s' : State} (h : step s = .next s') :
    s.cfg.wellFormed = true ∧
      (fetch s = .quiet s' ∨
        ∃ w s1, fetch s = .turn w s1 ∧
          ((∃ i, decode w = .ok i ∧ exec i s1 = .next s') ∨ ∃ e, decode w = .error e ∧ s' = rejectWord e s1)) := by
  unfold step at h
  cases hc : s.cfg.wellFormed with
  | false =>
    rw [hc] at h
    cases hq : fetch s <;> simp [hq, runFetched] at h
  | true =>
    rw [hc] at h
    refine ⟨rfl, ?_⟩
    cases hq : fetch s with
    | quiet s1 =>
      rw [hq] at h
      cases h
      exact .inl rfl
    | stuck c =>
      rw [hq] at h
      cases h
    | turn w s1 =>
      rw [hq] at h
      refine .inr ⟨w, s1, rfl, ?_⟩
      cases hd : decode w with
      | ok i => exact .inl ⟨i, rfl, by simpa only [runFetched, runWord, hd] using h⟩
      | error e =>
        simp only [runFetched, runWord, hd, Host.Outcome.next.injEq] at h
        exact .inr ⟨e, rfl, h.symm⟩

/-- A step under parameters that R6 allows runs what is fetched. -/
theorem step_allowed {s : State} (h : s.cfg.wellFormed = true) : step s = runFetched (fetch s) true := by
  rw [step, h]

/-- A step under parameters that R6 does not allow is refused. -/
theorem step_refused {s : State} (h : s.cfg.wellFormed = false) : step s = .refused .badParameters := by
  rw [step, h]
  cases fetch s <;> rfl

/-- A faulted block to which no reset is presented is the fault outcome of the machine (R164). -/
theorem step_stuck {s : State} {c : FaultCode} (hc : s.cfg.wellFormed = true) (hf : s.fault = some c)
    (hi : ∀ p ∈ s.inputs, p.rst = false) : step s = .fault (.noStep c) := by
  rw [step_allowed hc, fetch_stuck.mpr ⟨hf, hi⟩]
  rfl

/-- A judged run that ends in a state starts in a safe one, and so ends. -/
theorem judgedRun_next {n : Nat} {s s' : State} (h : judgedRun n s = .next s') : Safe s ∧ Safe s' := by
  induction n generalizing s with
  | zero =>
    obtain ⟨hs, h⟩ := whenLive_next h
    cases h
    exact ⟨hs, hs⟩
  | succ n ih =>
    obtain ⟨hs, h⟩ := whenLive_next h
    refine ⟨hs, ?_⟩
    split at h
    · exact (ih h).2
    · cases h
    · cases h

/-- A judged run takes the machine's first step and goes on. -/
theorem judgedRun_succ {n : Nat} {s s1 : State} (hs : s.fault = none) (h : step s = .next s1) :
    judgedRun (n + 1) s = judgedRun n s1 := by
  rw [judgedRun, whenLive_live hs, h]

end Sys2Proof.Machine
end

