-- ==== Sys2Proof/Tests/Slice0.lean ====
section
/-! SUPPORT. Tests of one step each, with results from spec/95_test_vectors.md or worked by hand from the rules, and for every
statement with hypotheses a witness that meets them. -/

namespace Sys2Proof.Tests

open Sys2Proof.Machine Sys2Proof.Safety

/-! ## Well-formedness: an ill-formed term for each check of R6, R69 -/

theorem test_default_parameters_ok : Config.default.wellFormed = true := by decide
theorem test_year_high_mask_refused : { Config.default with maskYearHigh := 0x00 }.wellFormed = false := by decide
theorem test_month_mask_gap_refused : { Config.default with maskMonth := 0x2F }.wellFormed = false := by decide
theorem test_month_mask_narrow_refused : { Config.default with maskMonth := 0x07 }.wellFormed = false := by decide
theorem test_day_mask_gap_refused : { Config.default with maskDay := 0x5F }.wellFormed = false := by decide
theorem test_day_mask_narrow_refused : { Config.default with maskDay := 0x0F }.wellFormed = false := by decide
theorem test_hour_mask_gap_refused : { Config.default with maskHour := 0x9F }.wellFormed = false := by decide
theorem test_hour_mask_narrow_refused : { Config.default with maskHour := 0x0F }.wellFormed = false := by decide
theorem test_minute_mask_gap_refused : { Config.default with maskMinute := 0xBF }.wellFormed = false := by decide
theorem test_minute_mask_narrow_refused : { Config.default with maskMinute := 0x1F }.wellFormed = false := by decide
theorem test_second_mask_gap_refused : { Config.default with maskSecond := 0xBF }.wellFormed = false := by decide
theorem test_second_mask_narrow_refused : { Config.default with maskSecond := 0x1F }.wellFormed = false := by decide
theorem test_year_max_refused : { Config.default with maskYearHigh := 0x0F, yearMax := 4096 }.wellFormed = false := by
  decide
theorem test_no_pulse_is_no_delivery : (PortWord.pulses 0b000).wellFormed = false := by decide
theorem test_two_pulses_are_no_one_delivery : (PortWord.pulses 0b011).wellFormed = false := by decide

/-! ## Decoding: words written out bit by bit from R65 (unit, then fn) and R69 -/

theorem test_word_decode : decode (.command 0b0001_0000) = .ok .decode := rfl
theorem test_word_encode : decode (.command 0b0001_0001) = .ok .encode := rfl
theorem test_word_advance : decode (.command 0b0010_0000) = .ok .advance := rfl
theorem test_word_retreat : decode (.command 0b0010_0001) = .ok .retreat := rfl
theorem test_word_lineCfg : decode (.command 0b0011_0000) = .ok .lineCfg := rfl
theorem test_word_lineStat : decode (.command 0b0011_0001) = .ok .lineStat := rfl
theorem test_word_evPop : decode (.command 0b0011_0010) = .ok .evPop := rfl
theorem test_word_setRate : decode (.command 0b0100_0000) = .ok .setRate := rfl
theorem test_word_getRate : decode (.command 0b0100_0001) = .ok .getRate := rfl
theorem test_word_irqAlarm : decode (.pulses 0b001) = .ok .irqAlarm := rfl
theorem test_word_irqTick : decode (.pulses 0b010) = .ok .irqTick := rfl
theorem test_word_irqPeriodic : decode (.pulses 0b100) = .ok .irqPeriodic := rfl
theorem test_two_pulses_refused : decode (.pulses 0b110) = .error (.severalPulses 0b110) := rfl
/-- R66: 247 of the 256 command words are unrecognised. -/
theorem test_247_words_unrecognised :
    ((List.range 256).filter fun n => (decodeTableWord 8 n).isNone || n < 8).length = 247 := by decide +kernel
theorem test_table_word_command : decodeTableWord 8 0x32 = some .evPop := by decide
theorem test_table_word_pulse : decodeTableWord 8 0b100 = some .irqPeriodic := by decide

/-! ## One command each (95_test_vectors.md section 2) -/

/-- The reset state with the given operand buses. -/
def onBus (t : TBus) (b : BBus) (d : DBus) : State := { State.reset with bus := { tIn := t, bIn := b, dIn := d } }

/-- The state of an outcome, as the tests look at it. -/
def after {α : Type} (r : Host.Outcome State Fault Refusal) (f : State → α) : Option α := (nextOf r).map f

/-- TC3: the non-field bits of the block E9 07 F3 EA EC C0 C5 are ignored. -/
theorem test_decode_ignores_other_bits :
    after (exec .decode (onBus 0 0xC5C0ECEAF307E9 0)) State.tOutPort = some (some 0x05000C0A0307E9) := by decide
/-- TC5: 65535, 15, 31, 31, 63, 63. -/
theorem test_decode_all_ones :
    after (exec .decode (onBus 0 0xFFFFFFFFFFFFFF 0)) (fun s => s.tOutPort.map calOfBus)
      = some (some ⟨65535, 15, 31, 31, 63, 63⟩) := by decide
/-- TC9: read-modify-write of 1900-01-01T00:00:00 into 12 34 A5 5A C3 81 7E. -/
theorem test_encode_keeps_other_bits :
    after (exec .encode (onBus 0x0000000101076C 0x7E81C35AA53412 0)) State.bOutPort
      = some (some 0x4080C041A1076C) := by decide
/-- TC14: a narrower year-high mask truncates the year. -/
theorem test_encode_narrow_year :
    after (exec .encode { onBus 0x00000001011234 0 0 with
        cfg := { Config.default with maskYearHigh := 0x0F, yearMax := 4095 } }) State.bOutPort
      = some (some 0x00000001010234) := by decide
/-- AD7: 2100 is no leap year. -/
theorem test_advance_century :
    after (exec .advance (onBus (busOfCal ⟨2100, 2, 28, 23, 59, 59⟩) 0 0)) (fun s => s.tOutPort.map calOfBus)
      = some (some ⟨2100, 3, 1, 0, 0, 0⟩) := by decide
/-- AD12: the top of the range. -/
theorem test_advance_last_second :
    after (exec .advance (onBus (busOfCal ⟨65535, 12, 31, 23, 59, 59⟩) 0 0)) (fun s => (s.statusPort, s.fault, s.tOutPort))
      = some (some 0x9, some .adjRange, none) := by decide
/-- RT2: a borrow into a leap February. -/
theorem test_retreat_leap_february :
    after (exec .retreat (onBus (busOfCal ⟨2024, 3, 1, 0, 0, 0⟩) 0 0)) (fun s => s.tOutPort.map calOfBus)
      = some (some ⟨2024, 2, 29, 23, 59, 59⟩) := by decide
/-- RT11: the domain check comes first. -/
theorem test_retreat_domain_first :
    after (exec .retreat (onBus (busOfCal ⟨1900, 1, 1, 0, 0, 60⟩) 0 0)) (fun s => (s.statusPort, s.fault))
      = some (some 0x8, some .adjDomain) := by decide
/-- P3, step 1. -/
theorem test_lineCfg_sets_three_bits :
    after (exec .lineCfg (onBus 0 0 0b011)) (fun s => (s.active, s.statusPort)) = some (0b011, some 0x0) := by decide
/-- ID5: a reserved bit of D_IN. -/
theorem test_lineCfg_reserved_bit :
    after (exec .lineCfg (onBus 0 0 0x0008)) (fun s => (s.active, s.statusPort)) = some (0b000, some 0x1) := by decide
/-- ID6. -/
theorem test_lineStat_reads_enables :
    after (exec .lineStat { State.reset with active := 0b101 }) State.dOutPort = some (some 0x0005) := by decide
/-- R132's example. -/
theorem test_evPop_head_first :
    after (exec .evPop { State.reset with evq := [0x8001, 0x8002] }) (fun s => (s.dOutPort, s.evq))
      = some (some 0x8001, [0x8002]) := by decide
/-- ID7. -/
theorem test_evPop_empty :
    after (exec .evPop State.reset) (fun s => (s.dOutPort, s.statusPort)) = some (some 0x0000, some 0x0) := by decide
/-- R146's example. -/
theorem test_setRate_truncates :
    after (exec .setRate (onBus 0 0 100)) (fun s => (s.pticks, s.statusPort)) = some (some 10, some 0x0) := by decide
/-- 2.4: 1025 Hz faults, and PTICKS is unchanged. -/
theorem test_setRate_above_range :
    after (exec .setRate (onBus 0 0 1025)) (fun s => (s.pticks, s.statusPort)) = some (none, some 0xA) := by decide
/-- R147's example. -/
theorem test_getRate_reads_back_higher :
    after (exec .getRate { State.reset with pticks := some 10 }) State.dOutPort = some (some 102) := by decide
/-- PR1. -/
theorem test_getRate_unset :
    after (exec .getRate State.reset) (fun s => (s.statusPort, s.fault, s.dOutPort))
      = some (some 0xB, some .rateUnset, none) := by decide
/-- ID1: lines are inactive after reset. -/
theorem test_irqAlarm_inactive : after (exec .irqAlarm State.reset) (fun s => s.evq) = some [] := by decide
/-- ID11's overflow, on the alarm line. -/
theorem test_irqAlarm_overflow :
    after (exec .irqAlarm { State.reset with
        active := 0b111, evq := [0x8002], cfg := { Config.default with evqDepth := some 1 } }) (fun s => (s.evq, s.fault, s.statusPort, s.faultWire))
      = some ([0x8002], some .evqOverflow, none, true) := by decide
/-- R124's example. -/
theorem test_irqTick_appends_at_tail :
    after (exec .irqTick { State.reset with active := 0b010, evq := [0x8001] }) (fun s => s.evq)
      = some [0x8001, 0x8002] := by decide
/-- ID10 with `EV_COALESCE`. -/
theorem test_irqTick_coalesces :
    after (exec .irqTick { State.reset with
        active := 0b010, evq := [0x8002], cfg := { Config.default with evCoalesce := true } }) (fun s => s.evq) = some [0x8002] := by decide
/-- ID14: a delivery does not read PTICKS. -/
theorem test_irqPeriodic_without_rate :
    after (exec .irqPeriodic { State.reset with active := 0b100 }) (fun s => (s.evq, s.evqNonemptyWire))
      = some ([0x8003], true) := by decide
/-- R125's example: ACTIVE = 0b011. -/
theorem test_irqPeriodic_inactive :
    after (exec .irqPeriodic { State.reset with active := 0b011 }) (fun s => s.evq) = some [] := by decide

/-! ## The machine's step -/

/-- A sample that presents one command. -/
def cmdSample (w : CmdWord) (t : TBus) (b : BBus) (d : DBus) : InPorts :=
  { rst := false, cmdValid := true, cmd := w, buses := { tIn := t, bIn := b, dIn := d }, irq := 0 }

/-- A sample that presents pulses. -/
def irqSample (p : IrqVector) : InPorts :=
  { rst := false, cmdValid := false, cmd := 0, buses := { tIn := 0, bIn := 0, dIn := 0 }, irq := p }

/-- A sample with `rst`. -/
def rstSample : InPorts := { cmdSample 0x31 0 0 0 with rst := true, irq := 0b111 }

/-- The reset state with samples presented. -/
def presenting (l : List InPorts) : State := { State.reset with inputs := l }

/-- P2, step 3. -/
theorem test_step_runs_command :
    after (step (presenting [cmdSample 0x21 0x05000C0A0307E9 0 0])) (fun s => (s.tOutPort, s.inputs))
      = some (some 0x04000C0A0307E9, []) := by decide
/-- US2: an unrecognised command answers UNSUPPORTED. -/
theorem test_step_unrecognised :
    after (step (presenting [cmdSample 0x12 0 0 7])) (fun s => (s.statusPort, s.active, s.dOutPort, s.fault))
      = some (some 0x1, 0b000, none, none) := by decide
/-- P2, step 9: a pulse is a delivery. -/
theorem test_step_runs_delivery :
    after (step { presenting [irqSample 0b001] with active := 0b111 }) (fun s => (s.evq, s.resp))
      = some ([0x8001], none) := by decide
/-- P5, step 5, and ID12: no step; the machine's outcome is the fault. -/
theorem test_step_faulted_is_stuck :
    step { presenting [cmdSample 0x31 0 0 0] with fault := some .adjRange, active := 0b001 }
      = .fault (.noStep .adjRange) := rfl
/-- P5, steps 4 to 6: the pulse and LINESTAT before rst are lost, and the LINESTAT after it is still to come. -/
theorem test_step_faulted_loses_inputs_until_rst :
    after (step { presenting [irqSample 0b001, cmdSample 0x31 0 0 0, rstSample, cmdSample 0x31 0 0 0] with
        fault := some .adjRange, active := 0b001 })
      (fun s => (s.fault, s.active, s.evq, s.inputs)) = some (none, 0b000, [], [cmdSample 0x31 0 0 0]) := by decide
/-- ID11 as a run: the fault outcome is the run's, though a reset follows. -/
theorem test_overflowing_run_is_refuted :
    judgedRun 2 { presenting [irqSample 0b001, rstSample] with
        active := 0b111, evq := [0x8002], cfg := { Config.default with evqDepth := some 1 } }
      = .fault (.noStep .evqOverflow) := rfl
/-- P5, step 6: reset is the way out of a fault. -/
theorem test_step_rst :
    after (step { presenting [rstSample] with fault := some .adjRange, active := 0b001, pticks := some 3, evq := [0x8001] })
      (fun s => (s.active, s.pticks, s.evq, s.fault, s.faultWire)) = some (0b000, none, [], none, false) := by decide
/-- Two agents presented together: one sample, two agents with a step to take. -/
theorem test_two_agents_pending :
    pendingAgents { cmdSample 0x31 0 0 0 with irq := 0b100 } = [.cmd, .irq .tickPeriodic] := by decide
/-- The word of a table row, presented to the reset state, is what the step runs. -/
theorem test_fetch_word_runs_first :
    after (step (State.reset.withFetchWord 8 0x41)) (fun s => (s.statusPort, s.fault)) = some (some 0xB, some .rateUnset) := by
  decide
theorem test_fetch_word_pulse_runs_first :
    fetch (State.reset.withFetchWord 8 0b010) = .turn (.pulses 0b010) State.reset := by decide
/-- W8, P2: the alarm round trip on the reset state. -/
theorem test_alarm_write :
    after (alarmWrite 0x05000C0A0307E9 0x00000000800000 State.reset) State.bOutPort = some (some 0x04000C0A8307E9) := by
  decide
theorem test_alarm_read :
    after (alarmRead 0x04000C0A8307E9 State.reset) State.tOutPort = some (some 0x05000C0A0307E9) := by decide
/-- P1, step 1. -/
theorem test_time_write :
    after (timeWrite 0x00000C0A0307E9 State.reset) State.bOutPort = some (some 0x00000C0A0307E9) := by decide
/-- 2.4: 300 Hz reads back 341. -/
theorem test_rate_set_get : after (rateSetGet 300 State.reset) State.dOutPort = some (some 341) := by decide
/-- R71: after a status other than OK the host issues no more. -/
theorem test_rate_set_get_stops : after (rateSetGet 0 State.reset) State.statusPort = some (some 0xA) := by decide
/-- R104 by hand: 1900-01-02T00:00:01 is second 86401, and 1900-03-01 is day 59 (1900 is no leap year). -/
theorem test_toSecs : toSecs ⟨1900, 1, 2, 0, 0, 1⟩ = 86401 ∧ toSecs ⟨1900, 3, 1, 0, 0, 0⟩ = 59 * 86400 := by decide
theorem test_fromSecs : fromSecs (365 * 86400) = ⟨1901, 1, 1, 0, 0, 0⟩ := by decide

/-! ## Witnesses: states that meet the hypotheses of each statement together -/

/-- A state with a full queue of one, PTICKS at its greatest value and a delivery presented. -/
def fullState : State :=
  { presenting [irqSample 0b001] with
    active := 0b111, pticks := some 1024, evq := [0x8002], cfg := { Config.default with evqDepth := some 1 } }

/-- A state with a coalescing queue that holds the alarm event. -/
def coalescingState : State :=
  { State.reset with active := 0b001, evq := [0x8001], cfg := { Config.default with evCoalesce := true } }

/-- The reset state with 2025-03-10T12:00:05 on T_IN. -/
def timedState : State := onBus 0x05000C0A0307E9 0 0

theorem fullState_invariant : BlockInv fullState := by
  refine ⟨?_, ?_, ?_, ?_, ?_⟩
  · intro n h
    cases h
    decide
  · intro e he
    have : e = 0x8002 := by simpa [fullState] using he
    exact .inr (.inl this)
  · intro n h
    have : (1 : Nat) = n := by simpa [fullState] using h
    simp [fullState, ← this]
  · intro h
    cases h
  · intro r h
    cases h

theorem witness_StepKeepsInvariant : ∃ s', BlockInv fullState ∧ step fullState = .next s' :=
  ⟨_, fullState_invariant, rfl⟩

theorem witness_StepAnswersUnlessFaulted : fullState.cfg.wellFormed = true ∧ BlockInv fullState :=
  ⟨by decide, fullState_invariant⟩

theorem witness_StepAnswersUnlessFaulted_faulted :
    let s := { fullState with fault := some .evqOverflow }
    s.cfg.wellFormed = true ∧ BlockInv s ∧ s.fault = some .evqOverflow ∧ ¬ ∃ p ∈ s.inputs, p.rst = true :=
  ⟨by decide, fullState_invariant, rfl, by decide⟩

/-- The case of log 20: `rst` is presented to a faulted block after a sample without it. -/
theorem witness_StepAnswersUnlessFaulted_reset :
    let s := { fullState with fault := some .evqOverflow, inputs := [irqSample 0b001, rstSample] }
    s.cfg.wellFormed = true ∧ BlockInv s ∧ s.fault = some .evqOverflow ∧ (∃ p ∈ s.inputs, p.rst = true) ∧
      ∃ s', step s = .next s' :=
  ⟨by decide, fullState_invariant, rfl, by decide, _, rfl⟩

theorem witness_StepRunsDecodedCommand :
    let p := cmdSample 0x32 0 0 0
    let s := presenting [p, p]
    s.cfg.wellFormed = true ∧ s.fault = none ∧ s.inputs = [p, p] ∧ p.rst = false ∧ p.cmdValid = true ∧ p.irq = 0 ∧
      decode (.command p.cmd) = .ok .evPop := ⟨by decide, rfl, rfl, rfl, rfl, rfl, rfl⟩

theorem witness_StepRunsDelivery :
    let p := irqSample 0b100
    let s := presenting [p]
    s.cfg.wellFormed = true ∧ s.fault = none ∧ s.inputs = [p] ∧ p.rst = false ∧ p.cmdValid = false ∧
      p.irq = linePattern .tickPeriodic := by decide

theorem witness_StepServesOnePresentedAgent :
    let p : InPorts := { cmdSample 0x31 0 0 0 with irq := 0b111 }
    let s := presenting [p]
    s.cfg.wellFormed = true ∧ s.fault = none ∧ s.inputs = [p] ∧ p.rst = false ∧ pendingAgents p ≠ [] ∧
      decode (agentWord p .cmd) = .ok .lineStat := ⟨by decide, rfl, rfl, rfl, by decide, rfl⟩

theorem witness_StepServesOnePresentedAgent_unrecognised :
    let p : InPorts := cmdSample 0xFF 0 0 0
    let s := presenting [p]
    s.cfg.wellFormed = true ∧ s.fault = none ∧ s.inputs = [p] ∧ p.rst = false ∧ pendingAgents p = [.cmd] ∧
      decode (agentWord p .cmd) = .error (.unrecognised 0xFF) := ⟨by decide, rfl, rfl, rfl, by decide, rfl⟩

theorem witness_IdleStepChangesNothing :
    State.reset.cfg.wellFormed = true ∧ State.reset.fault = none ∧ State.reset.inputs = [] := by decide

theorem witness_IdleStepChangesNothing_emptySample :
    let p := irqSample 0
    let s := presenting [p]
    s.cfg.wellFormed = true ∧ s.fault = none ∧ s.inputs = [p] ∧ p.rst = false ∧ p.cmdValid = false ∧ p.irq = 0 := by
  decide

theorem witness_UnrecognisedCommandAnswersUnsupported :
    let p := cmdSample 0x42 0 0 0
    let s := presenting [p]
    s.cfg.wellFormed = true ∧ s.fault = none ∧ s.inputs = [p] ∧ p.rst = false ∧ p.cmdValid = true ∧ p.irq = 0 ∧
      p.cmd ∉ ([0x10, 0x11, 0x20, 0x21, 0x30, 0x31, 0x32, 0x40, 0x41] : List CmdWord) := by decide

theorem witness_RstPutsResetValues :
    let s := { presenting [rstSample] with fault := some .rateUnset }
    s.cfg.wellFormed = true ∧ s.inputs = [rstSample] ∧ rstSample.rst = true := by decide

theorem witness_ParametersMeetBoundsOrAreRefused :
    { State.reset with cfg := { Config.default with maskDay := 0x0F } }.cfg.wellFormed = false := by decide

theorem witness_StepKeepsParameters : ∃ s', step fullState = .next s' := ⟨_, rfl⟩

theorem witness_live_state :
    State.reset.fault = none ∧ timedState.fault = none ∧ timedState.cfg.wellFormed = true ∧
      timedState.cfg = Config.default := by decide

/-- EncodeThenDecodeReturnsTime: the widest fields the default masks hold, and a valid time. -/
theorem witness_EncodeThenDecodeReturnsTime :
    State.reset.fault = none ∧ State.reset.cfg.wellFormed = true ∧ FitsMasks State.reset.cfg 0x3F3F1F1F0FFFFF := by
  unfold FitsMasks
  decide

theorem witness_EncodeThenDecodeReturnsTime_valid :
    State.reset.fault = none ∧ State.reset.cfg = Config.default ∧
      validTime State.reset.cfg.yearMax (calOfBus 0x05000C0A0307E9) = true := by decide

/-- DecodeSeesOnlyFieldBits: two blocks that differ in non-field bits only. -/
theorem witness_DecodeSeesOnlyFieldBits :
    State.reset.fault = none ∧
      ∀ k : Fin 7, bByte 0xC5C0ECEAF307E9 k &&& fieldMask State.reset.cfg k
        = bByte 0x05000C0A0307E9 k &&& fieldMask State.reset.cfg k := by decide

theorem witness_TimeWriteOfValidTimeIsItsBus :
    State.reset.fault = none ∧ State.reset.cfg = Config.default ∧
      validTime State.reset.cfg.yearMax (calOfBus 0x3B3B171F0CFFFF) = true := by decide

theorem witness_StatelessUnitsIgnoreState :
    let s2 := { State.reset with active := 0b111, pticks := some 3, evq := [0x8001] }
    State.reset.fault = none ∧ s2.fault = none ∧ State.reset.bus = s2.bus ∧ State.reset.cfg = s2.cfg := by decide

theorem witness_CalendarPrimitives_months : (12 : Nat) ∈ [1, 3, 5, 7, 8, 10, 12] ∧ (11 : Nat) ∈ [4, 6, 9, 11] := by decide

theorem witness_ToSecsIsTheSumOfDays : validTime 65535 ⟨2024, 2, 29, 23, 59, 59⟩ = true := by decide

/-- ToSecsIsABijection: the ends of the shortest calendar. -/
theorem witness_ToSecsIsABijection :
    1900 ≤ 1900 ∧ validTime 1900 ⟨1900, 12, 31, 23, 59, 59⟩ = true ∧ nMax 1900 ≤ nMax 1900 := by decide

/-- AdvanceFollowsTheTimeAxis: a state for each of its three outcomes. -/
theorem witness_AdvanceFollowsTheTimeAxis_domain :
    let s := onBus (busOfCal ⟨2025, 4, 31, 0, 0, 0⟩) 0 0
    s.fault = none ∧ s.cfg.wellFormed = true ∧ ¬ ValidIn s := by decide

theorem witness_AdvanceFollowsTheTimeAxis_range :
    let s := { onBus (busOfCal ⟨1901, 12, 31, 23, 59, 59⟩) 0 0 with cfg := { Config.default with yearMax := 1901 } }
    s.fault = none ∧ s.cfg.wellFormed = true ∧ ValidIn s ∧ toSecs (calOfBus s.bus.tIn) + 1 > nMax s.cfg.yearMax := by decide

theorem witness_AdvanceFollowsTheTimeAxis_result :
    let s := { onBus (busOfCal ⟨1901, 12, 31, 23, 59, 58⟩) 0 0 with cfg := { Config.default with yearMax := 1901 } }
    s.fault = none ∧ s.cfg.wellFormed = true ∧ ValidIn s ∧ ¬ toSecs (calOfBus s.bus.tIn) + 1 > nMax s.cfg.yearMax := by
  decide

theorem witness_RetreatFollowsTheTimeAxis_range :
    let s := onBus (busOfCal ⟨1900, 1, 1, 0, 0, 0⟩) 0 0
    s.fault = none ∧ s.cfg.wellFormed = true ∧ ValidIn s ∧ (toSecs (calOfBus s.bus.tIn) : Int) - 1 < 0 := by decide

theorem witness_RetreatFollowsTheTimeAxis_domain :
    let s := onBus (busOfCal ⟨1900, 1, 1, 0, 0, 60⟩) 0 0
    s.fault = none ∧ s.cfg.wellFormed = true ∧ ¬ ValidIn s := by decide

theorem witness_RetreatFollowsTheTimeAxis_result :
    let s := onBus (busOfCal ⟨1900, 1, 1, 0, 0, 1⟩) 0 0
    s.fault = none ∧ s.cfg.wellFormed = true ∧ ValidIn s ∧ ¬ (toSecs (calOfBus s.bus.tIn) : Int) - 1 < 0 := by decide

theorem witness_AdvanceCompletesByCarryChain :
    let s := onBus (busOfCal ⟨2024, 12, 31, 23, 59, 59⟩) 0 0
    s.fault = none ∧ s.cfg.wellFormed = true ∧ ValidIn s ∧
      calOfBus s.bus.tIn ≠ ⟨s.cfg.yearMax, 12, 31, 23, 59, 59⟩ := by decide

theorem witness_RetreatCompletesByBorrowChain :
    let s := onBus (busOfCal ⟨2025, 1, 1, 0, 0, 0⟩) 0 0
    s.fault = none ∧ s.cfg.wellFormed = true ∧ ValidIn s ∧ calOfBus s.bus.tIn ≠ ⟨1900, 1, 1, 0, 0, 0⟩ := by decide

theorem witness_AdvanceAndRetreatAreInverse_advance :
    ∃ s1, State.reset.cfg.wellFormed = true ∧ issue .advance ⟨0x3B3B171F0C07E8, 0, 0⟩ State.reset = .next s1 ∧
      s1.resp = some ⟨.ok, some 0x000000010107E9, none, none⟩ := ⟨_, by decide, rfl, by decide⟩

theorem witness_AdvanceAndRetreatAreInverse_retreat :
    ∃ s1, State.reset.cfg.wellFormed = true ∧ issue .retreat ⟨0x000000010107E9, 0, 0⟩ State.reset = .next s1 ∧
      s1.resp = some ⟨.ok, some 0x3B3B171F0C07E8, none, none⟩ := ⟨_, by decide, rfl, by decide⟩

theorem witness_AlarmRoundTripReturnsTime :
    State.reset.fault = none ∧ State.reset.cfg.wellFormed = true ∧
      validTime State.reset.cfg.yearMax (calOfBus 0x0100000101076C) = true ∧
      calOfBus 0x0100000101076C ≠ ⟨1900, 1, 1, 0, 0, 0⟩ := by decide

theorem witness_ActiveDeliveryAppendsItsEvent :
    let s := { State.reset with active := 0b111, cfg := { Config.default with evqDepth := some 1 } }
    s.fault = none ∧ s.active.getLsbD 2 = true ∧ ¬ (s.cfg.evCoalesce = true ∧ (0x8003 : EventWord) ∈ s.evq) ∧
      s.cfg.evqDepth ≠ some s.evq.length ∧
      (Instr.irqPeriodic, 2, 0x8003) ∈
        ([(.irqAlarm, 0, 0x8001), (.irqTick, 1, 0x8002), (.irqPeriodic, 2, 0x8003)] : List (Instr × Nat × EventWord)) := by
  decide

theorem witness_CoalescedDeliveryMerges :
    coalescingState.fault = none ∧ coalescingState.lineActive .alarm = true ∧ coalescingState.cfg.evCoalesce = true ∧
      lineEvent .alarm ∈ coalescingState.evq := by decide

theorem witness_DeliveryToFullQueueFaults :
    fullState.fault = none ∧ fullState.lineActive .alarm = true ∧
      ¬ (fullState.cfg.evCoalesce = true ∧ lineEvent .alarm ∈ fullState.evq) ∧
      fullState.cfg.evqDepth = some fullState.evq.length := by decide

theorem witness_InactiveDeliveryLeavesNoTrace :
    let s := { State.reset with active := 0b101 }
    s.fault = none ∧ s.active.getLsbD (lineIndex .tickSecond) = false := by decide

theorem witness_DeliveryWritesOnlyQueueOrFault : ∃ s', exec (deliveryOf .alarm) fullState = .next s' := ⟨_, rfl⟩

theorem witness_LinesAreIndependent :
    let s := { State.reset with active := 0b101 }
    s.fault = none ∧ (0b011 : BitVec 3).getLsbD (lineIndex .alarm) = s.active.getLsbD (lineIndex .alarm) := by decide

theorem witness_SimultaneousPulsesQueueInSomeOrder :
    let p := irqSample 0b011
    let s := { presenting [p] with active := 0b011 }
    s.cfg.wellFormed = true ∧ s.fault = none ∧ s.inputs = [p] ∧ p.rst = false ∧ p.cmdValid = false ∧
      Line.alarm ≠ Line.tickSecond ∧ p.irq = linePattern .alarm ||| linePattern .tickSecond ∧
      s.lineActive .alarm = true ∧ s.lineActive .tickSecond = true ∧ s.cfg.evCoalesce = false ∧
      s.cfg.evqDepth = none := by decide

/-- LineCfgSetsEnables: the greatest operand that is taken, and the least that is not. -/
theorem witness_LineCfgSetsEnables :
    (onBus 0 0 7).fault = none ∧ (onBus 0 0 7).bus.dIn.toNat < 8 ∧ 8 ≤ (onBus 0 0 8).bus.dIn.toNat := by decide

theorem witness_EvPopReturnsOldestEvent : State.reset.fault = none ∧ State.reset.evq = [] ∧
    fullState.fault = none ∧ fullState.evq = 0x8002 :: [] := by decide

theorem witness_EventsReturnedAndQueuedEqualDeliveries :
    let s := { presenting [irqSample 0b001, cmdSample 0x32 0 0 0] with active := 0b111 }
    s.cfg = Config.default ∧ s.active = 0b111 ∧ (∀ p ∈ s.inputs, keepsEnables p) ∧
      (runTally .alarm 2 s).map (fun r => r.2) = some { delivered := 1, returned := 1 } ∧
      (nextOf (judgedRun 2 s)).isSome = true := by
  refine ⟨rfl, rfl, ?_, by decide, by decide⟩
  unfold keepsEnables
  decide

/-- SetRateStoresTruncatedDivisor: both ends of the accepted range, and the values beside them. -/
theorem witness_SetRateStoresTruncatedDivisor :
    (onBus 0 0 0).fault = none ∧ (onBus 0 0 0).bus.dIn = 0 ∧ 1024 < (onBus 0 0 1025).bus.dIn.toNat ∧
      1 ≤ (onBus 0 0 1).bus.dIn.toNat ∧ (onBus 0 0 1024).bus.dIn.toNat ≤ 1024 := by decide

theorem witness_GetRateReadsTruncatedRate_unset :
    State.reset.fault = none ∧ PticksLegal State.reset ∧ State.reset.pticks = none :=
  ⟨rfl, (fun _ h => by cases h), rfl⟩

theorem witness_GetRateReadsTruncatedRate_set :
    fullState.fault = none ∧ PticksLegal fullState ∧ fullState.pticks = some 1024 :=
  ⟨rfl, fullState_invariant.1, rfl⟩

theorem witness_GetRateOfZeroDivisorStops :
    let s := { State.reset with pticks := some 0 }
    s.fault = none ∧ s.pticks = some 0 := by decide

/-- RateRoundTripTruncatesTwice: a divisor of 1024 and a rate that is none. -/
theorem witness_RateRoundTripTruncatesTwice :
    State.reset.fault = none ∧ 1 ≤ (1024 : DBus).toNat ∧ (1024 : DBus).toNat ≤ 1024 ∧ 1024 % (1024 : DBus).toNat = 0 ∧
      1024 % (1023 : DBus).toNat ≠ 0 := by decide

theorem witness_StatusCodesAreAsListed :
    { State.reset with resp := some Response.unsupported }.statusPort = some 0x1 := by decide

theorem witness_FaultEntryIsPrecise :
    ∃ s', exec .irqAlarm fullState = .next s' ∧ s'.fault = some .evqOverflow := ⟨_, rfl, rfl⟩

theorem witness_FaultEntryIsPrecise_command :
    ∃ s', exec .getRate State.reset = .next s' ∧ s'.fault = some .rateUnset := ⟨_, rfl, rfl⟩

/-- FaultsHaveExactlyTheListedCauses: each cause holds in some live state. -/
theorem witness_FaultCauses :
    FaultCause .adjDomain .advance State.reset ∧ FaultCause .adjRange .retreat (onBus (busOfCal firstTime) 0 0) ∧
      FaultCause .rateRange .setRate State.reset ∧ FaultCause .rateUnset .getRate State.reset ∧
      FaultCause .evqOverflow .irqAlarm fullState := by
  unfold FaultCause
  exact ⟨by decide, by decide, by decide, by decide, ⟨.alarm, by decide⟩⟩

theorem witness_FaultedBlockHasNoStep :
    let s := { presenting [cmdSample 0x10 0 0 0] with fault := some .rateRange }
    s.cfg.wellFormed = true ∧ s.fault = some .rateRange ∧ ∀ p ∈ s.inputs, p.rst = false := by decide

theorem witness_FaultedBlockLosesItsInputs :
    let lost := [irqSample 0b001]
    let s := { presenting (lost ++ rstSample :: []) with fault := some .rateRange }
    s.cfg.wellFormed = true ∧ s.fault = some .rateRange ∧ s.inputs = lost ++ rstSample :: [] ∧
      (∀ q ∈ lost, q.rst = false) ∧ rstSample.rst = true := by decide

/-- FaultOnTheRunRefutesEveryClaim: a run of one step that ends in a fault, and one that goes on through a reset. -/
theorem witness_FaultOnTheRunRefutesEveryClaim :
    ∃ t, Sys2Proof.core.run 1 fullState = .next t ∧ t.fault = some .evqOverflow := ⟨_, rfl, rfl⟩

theorem witness_FaultOnTheRunRefutesEveryClaim_reset :
    ∃ t, Sys2Proof.core.run 2 { fullState with inputs := [irqSample 0b001, rstSample] } = .next t ∧ t.fault = none :=
  ⟨_, rfl, rfl⟩

theorem witness_FaultFreeRunSatisfiesWhatItsEndDoes :
    ∃ t, Sys2Proof.core.run 1 (presenting [cmdSample 0x31 0 0 0]) = .next t ∧
      ∀ k u, k ≤ 1 → Sys2Proof.core.run k (presenting [cmdSample 0x31 0 0 0]) = .next u → Safe u := by
  refine ⟨_, rfl, ?_⟩
  intro k u hk h
  match k, hk with
  | 0, _ =>
    cases h
    rfl
  | 1, _ =>
    cases h
    rfl

/-- A claim that a run satisfies: LINESTAT from reset answers 0x0000. -/
theorem witness_RunSatisfies :
    RunSatisfies 1 (presenting [cmdSample 0x31 0 0 0]) fun s => s.dOutPort = some 0x0000 := ⟨_, rfl, by decide⟩

theorem witness_OverflowRefutesTheRun :
    let p := irqSample 0b001
    fullState.cfg.wellFormed = true ∧ fullState.fault = none ∧ fullState.inputs = [p] ∧ p.rst = false ∧
      p.cmdValid = false ∧ p.irq = linePattern .alarm ∧ fullState.lineActive .alarm = true ∧
      ¬ (fullState.cfg.evCoalesce = true ∧ lineEvent .alarm ∈ fullState.evq) ∧
      fullState.cfg.evqDepth = some fullState.evq.length := by decide

/-- RstPutsResetValues, its second clause: a lost sample before `rst` in a faulted block. -/
theorem witness_RstPutsResetValues_clears :
    ∃ s', step { presenting [irqSample 0b010, rstSample] with fault := some .adjRange } = .next s' := ⟨_, rfl⟩

theorem witness_FaultRegisterChangesOnlyByEntryOrReset :
    ∃ s', step fullState = .next s' ∧ s'.fault = some .evqOverflow := ⟨_, rfl, by decide⟩

theorem witness_CommandDrivesOnlyItsOutputs : ∃ s', exec .encode timedState = .next s' := ⟨_, rfl⟩

theorem witness_CommandDrivesOnlyItsOutputs_delivery : ∃ s', exec .irqTick State.reset = .next s' := ⟨_, rfl⟩

theorem witness_FrameOfEveryInstruction : ∃ s', exec .evPop fullState = .next s' := ⟨_, rfl⟩

theorem witness_FrameOfEveryInstruction_fault : ∃ s', exec .setRate State.reset = .next s' := ⟨_, rfl⟩

theorem witness_CommandsButEvPopAreIdempotent :
    ∃ s', isDelivery .lineCfg = false ∧ Instr.lineCfg ≠ .evPop ∧ exec .lineCfg (onBus 0 0 7) = .next s' ∧ s'.fault = none :=
  ⟨_, by decide, by decide, rfl, rfl⟩

theorem witness_ReadingCommandsWriteNoState :
    ∃ s', Instr.lineStat ∈ ([.decode, .encode, .advance, .retreat, .lineStat, .getRate] : List Instr) ∧
      exec .lineStat fullState = .next s' ∧ s'.fault = none := ⟨_, by decide, rfl, rfl⟩

end Sys2Proof.Tests
end

/-! What the parameters' bounds say (00_scope.md R6), and which steps answer a next state (R161, R163, R164). -/

namespace Sys2Proof.Proofs

open Sys2Proof.Machine Sys2Proof.Safety

/-! ## The bounds of R6 -/

/-- The bit trick of `Byte.isFieldMask`: a byte and its successor share no bit exactly when the successor, taken without
wrapping, is a power of two. -/
theorem and_succ_eq_zero_iff (m : Byte) : m &&& (m + 1) = 0 ↔ ∃ w, m.toNat + 1 = 2 ^ w := by
  by_cases hm : m.toNat = 255
  · obtain rfl : m = 255#8 := BitVec.eq_of_toNat_eq hm
    exact iff_of_true rfl ⟨8, rfl⟩
  · have hsucc : (m + 1).toNat = m.toNat + 1 :=
      BitVec.toNat_add_of_lt (show m.toNat + 1 < 2 ^ 8 by have := m.isLt; omega)
    calc m &&& (m + 1) = 0 ↔ (m.toNat + 1) &&& (m.toNat + 1 - 1) = 0 := by
          rw [← BitVec.toNat_inj, BitVec.toNat_and, hsucc, Nat.and_comm]
          rfl
      _ ↔ ∃ w, m.toNat + 1 = 2 ^ w := Nat.and_sub_one_eq_zero_iff_isPowerOfTwo (Nat.succ_ne_zero _)

/-- `Byte.isFieldMask` accepts exactly the masks of R6. -/
theorem isFieldMask_iff (m : Byte) : m.isFieldMask = true ↔ ∃ w, 1 ≤ w ∧ w ≤ 8 ∧ m.toNat = 2 ^ w - 1 := by
  have hzero : m = 0 ↔ m.toNat = 0 := BitVec.toNat_inj.symm
  simp only [Byte.isFieldMask, Bool.and_eq_true, bne_iff_ne, beq_iff_eq, ne_eq, hzero, and_succ_eq_zero_iff]
  constructor
  · rintro ⟨hne, w, hw⟩
    have hpos : w ≠ 0 := by
      rintro rfl
      omega
    have hle : w ≤ 8 := (Nat.pow_le_pow_iff_right (by omega : 1 < 2)).mp (by have := m.isLt; omega)
    exact ⟨w, by omega, hle, by omega⟩
  · rintro ⟨w, h1, -, hw⟩
    have h2 : 2 ^ 1 ≤ 2 ^ w := Nat.pow_le_pow_right (by omega) h1
    exact ⟨by omega, w, by omega⟩

theorem covers_iff (m low : Byte) : m.covers low = true ↔ m &&& low = low := beq_iff_eq

/-- A byte above eight set bits, as R6 writes the greatest year the masks hold. -/
theorem yearMask_eq (m : Byte) : (m.toNat <<< 8) ||| 0xFF = 256 * m.toNat + 255 := by
  rw [← Nat.shiftLeft_add_eq_or_of_lt (by decide), Nat.shiftLeft_eq, Nat.mul_comm]

/-- What holds of every field mask holds of 0xFF and of the six masks that are parameters. -/
theorem forall_fieldMask_iff (c : Config) (P : Byte → Prop) :
    (∀ k, P (fieldMask c k)) ↔ P 0xFF ∧ P c.maskYearHigh ∧ P c.maskMonth ∧ P c.maskDay ∧ P c.maskHour ∧
      P c.maskMinute ∧ P c.maskSecond := by
  constructor
  · intro h
    exact ⟨h 0, h 1, h 2, h 3, h 4, h 5, h 6⟩
  · rintro ⟨h0, h1, h2, h3, h4, h5, h6⟩ k
    fin_cases k <;> assumption

/-- The check of `Config.wellFormed`, by the masks' numbers: every mask a field mask, then the lower bounds, then the year. -/
theorem wellFormed_iff (c : Config) : c.wellFormed = true ↔
    (∀ k, (fieldMask c k).isFieldMask = true) ∧ (fieldMask c 2).covers 0x0F = true ∧
      (fieldMask c 3).covers 0x1F = true ∧ (fieldMask c 4).covers 0x1F = true ∧ (fieldMask c 5).covers 0x3F = true ∧
      (fieldMask c 6).covers 0x3F = true ∧ c.yearMax ≤ 256 * (fieldMask c 1).toNat + 255 := by
  have hyearLow : Byte.isFieldMask 0xFF = true := by decide
  rw [forall_fieldMask_iff c (Byte.isFieldMask · = true)]
  simp only [Config.wellFormed, Bool.and_eq_true, decide_eq_true_eq, fieldMask, hyearLow, true_and, and_assoc]

/-- Settles O11: the two forms of each bound of R6 agree, and a step under other parameters is refused. -/
theorem parametersMeetBoundsOrAreRefused : Obligations.ParametersMeetBoundsOrAreRefused := by
  unfold Obligations.ParametersMeetBoundsOrAreRefused
  refine ⟨fun c => ?_, fun s => step_refused⟩
  have hyearLow : fieldMask c 0 = 0xFF := rfl
  simp only [wellFormed_iff, isFieldMask_iff, covers_iff, yearMask_eq, hyearLow, true_and]

/-! ## Which steps answer a next state -/

/-- A delivery to the queue answers a next state whether it merges, overflows or appends (R126, R163). -/
theorem enqueue_answers (ev : EventWord) (s : State) : ∃ s', enqueue ev s = .next s' := by
  unfold enqueue
  split
  · exact ⟨_, rfl⟩
  · split <;> exact ⟨_, rfl⟩

theorem deliver_answers (l : Line) (s : State) : ∃ s', deliver l s = .next s' := by
  unfold deliver
  split
  · exact enqueue_answers (lineEvent l) s
  · exact ⟨_, rfl⟩

/-- ADVANCE and RETREAT answer a next state in each of their three cases, a fault's entry being one (R163). -/
theorem adjust_answers (edge : CalTime) (f : CalTime → CalTime) (s : State) : ∃ s', adjust edge f s = .next s' := by
  unfold adjust
  split
  · split <;> exact ⟨_, rfl⟩
  · exact ⟨_, rfl⟩

theorem whenLive_answers {s : State} {k : Host.Outcome State Fault Refusal} (hlive : s.fault = none)
    (hk : ∃ s', k = .next s') : ∃ s', whenLive s k = .next s' := by
  rwa [whenLive_live hlive]

/-- GETRATE's one stop is the division by 0, which a legal PTICKS rules out (R147). -/
theorem execGetRate_answers {s : State} (hlive : s.fault = none) (hpticks : PticksLegal s) :
    ∃ s', execGetRate s = .next s' := by
  apply whenLive_answers hlive
  split
  · exact ⟨_, rfl⟩
  · rename_i n hn
    have hne : n ≠ 0 := by
      rintro rfl
      exact absurd (hpticks 0 hn).1 (by decide)
    exact ⟨_, if_neg hne⟩

/-- In a live block every instruction answers a next state. -/
theorem exec_answers {s : State} (hlive : s.fault = none) (hpticks : PticksLegal s) (i : Instr) :
    ∃ s', exec i s = .next s' := by
  cases i with
  | decode => exact whenLive_answers hlive ⟨_, rfl⟩
  | encode => exact whenLive_answers hlive ⟨_, rfl⟩
  | advance => exact whenLive_answers hlive (adjust_answers _ _ s)
  | retreat => exact whenLive_answers hlive (adjust_answers _ _ s)
  | lineCfg =>
    apply whenLive_answers hlive
    split <;> exact ⟨_, rfl⟩
  | lineStat => exact whenLive_answers hlive ⟨_, rfl⟩
  | evPop => exact whenLive_answers hlive ⟨_, rfl⟩
  | setRate =>
    apply whenLive_answers hlive
    split <;> exact ⟨_, rfl⟩
  | getRate => exact execGetRate_answers hlive hpticks
  | irqAlarm => exact whenLive_answers hlive (deliver_answers .alarm s)
  | irqTick => exact whenLive_answers hlive (deliver_answers .tickSecond s)
  | irqPeriodic => exact whenLive_answers hlive (deliver_answers .tickPeriodic s)

/-- An agent's step in a live block answers a next state, its word an instruction or not (R161). -/
theorem runWord_answers {s : State} (hlive : s.fault = none) (hpticks : PticksLegal s) (w : PortWord) :
    ∃ s', runWord w s = .next s' := by
  unfold runWord
  split
  · exact exec_answers hlive hpticks _
  · exact ⟨_, rfl⟩

/-- A step answers a next state when the block is live or a reset is presented. -/
theorem step_answers {s : State} (hcfg : s.cfg.wellFormed = true) (hpticks : PticksLegal s)
    (h : s.fault = none ∨ ∃ p ∈ s.inputs, p.rst = true) : ∃ s', step s = .next s' := by
  rw [step_allowed hcfg]
  cases hfetch : fetch s with
  | quiet s1 => exact ⟨s1, rfl⟩
  | stuck c =>
    obtain ⟨hfault, hrst⟩ := fetch_stuck.mp hfetch
    obtain hlive | ⟨p, hp, hpr⟩ := h
    · simp [hlive] at hfault
    · simp [hrst p hp] at hpr
  | turn w s1 =>
    obtain ⟨hlive, _, _, _, _, -, -, -, -, hs1⟩ := fetch_turn hfetch
    have hlive1 : s1.fault = none := by rw [hs1]; exact hlive
    have hpticks1 : PticksLegal s1 := by rw [hs1]; exact hpticks
    exact runWord_answers hlive1 hpticks1 w

/-- Settles O4: a step that does not answer a next state is stuck in a faulted block. -/
theorem stepAnswersUnlessFaulted : Obligations.StepAnswersUnlessFaulted := by
  unfold Obligations.StepAnswersUnlessFaulted
  rintro s hcfg ⟨hpticks, -⟩
  by_cases h : s.fault = none ∨ ∃ p ∈ s.inputs, p.rst = true
  · have hnext := step_answers hcfg hpticks h
    exact ⟨iff_of_true hnext h, .inl hnext⟩
  · obtain ⟨hfault, hrst⟩ := not_or.mp h
    obtain ⟨c, hc⟩ := Option.ne_none_iff_exists'.mp hfault
    have hstuck : step s = .fault (.noStep c) := step_stuck hcfg hc (by simpa using hrst)
    exact ⟨iff_of_false (by simp [hstuck]) h, .inr ⟨c, hc, hstuck⟩⟩

end Sys2Proof.Proofs

/-! What one instruction does and what one machine step does, each said once as a relation by cases; then the statements on
reset, on what a step runs, on the frame of an instruction, and on what every step keeps (10_state.md). -/

namespace Sys2Proof.Proofs

open Sys2Proof.Machine Sys2Proof.Safety

/-! ## Reset -/

/-- Settles O1: the table of R33, row by row. -/
theorem resetHoldsSpecValues : Obligations.ResetHoldsSpecValues := by
  unfold Obligations.ResetHoldsSpecValues
  exact ⟨rfl, rfl, rfl, rfl, rfl, rfl, rfl, rfl, rfl, rfl⟩

/-- A block that holds no divisor and no event and drives nothing meets the invariant, whatever its parameters. -/
theorem blockInv_of_cleared {s : State} (hpticks : s.pticks = none) (hevq : s.evq = []) (hresp : s.resp = none) :
    BlockInv s := by
  refine ⟨fun n hn => ?_, fun e he => ?_, fun n _ => ?_, fun _ => ?_, fun r hr => ?_⟩
  · simp [hpticks] at hn
  · simp [hevq] at he
  · simp [hevq]
  · simp [hevq]
  · simp [hresp] at hr

/-- Settles O2: reset clears all that the invariant speaks of. -/
theorem resetSatisfiesInvariant : Obligations.ResetSatisfiesInvariant := by
  unfold Obligations.ResetSatisfiesInvariant
  exact blockInv_of_cleared rfl rfl rfl

/-! ## The step of a sample that presents one agent -/

/-- A sample with no command and no pulse presents no agent. -/
theorem pendingAgents_of_none {p : InPorts} (hcmd : p.cmdValid = false) (hirq : p.irq = 0) : pendingAgents p = [] := by
  simp [pendingAgents, hcmd, hirq]

theorem pendingAgents_of_command {p : InPorts} (hcmd : p.cmdValid = true) (hirq : p.irq = 0) :
    pendingAgents p = [.cmd] := by
  simp [pendingAgents, hcmd, hirq]

theorem pendingAgents_of_pulse {p : InPorts} {l : Line} (hcmd : p.cmdValid = false) (hirq : p.irq = linePattern l) :
    pendingAgents p = [.irq l] := by
  cases l <;> simp [pendingAgents, hcmd, hirq, linePattern, lineIndex]

/-- A live block whose first sample presents one agent and nothing beside it runs that agent's word, the sample taken off. -/
theorem step_of_soleAgent {s : State} {p : InPorts} {later : List InPorts} {a : Agent} (hcfg : s.cfg.wellFormed = true)
    (hlive : s.fault = none) (hin : s.inputs = p :: later) (hrst : p.rst = false) (hsole : pendingAgents p = [a])
    (hrest : pendingAgents (clearAgent p a) = []) :
    step s = runWord (agentWord p a) { s with inputs := later, bus := agentBuses s p a } := by
  have hfetch : fetch s = .turn (agentWord p a) { s with inputs := later, bus := agentBuses s p a } := by
    simp [fetch_live hlive, fetchLive, hin, hrst, hsole, giveTurn, remaining, hrest]
  rw [step_allowed hcfg, hfetch, runFetched]

theorem runWord_of_decode {w : PortWord} {i : Instr} (h : decode w = .ok i) (s : State) : runWord w s = exec i s := by
  simp [runWord, h]

theorem decode_linePattern (l : Line) : decode (.pulses (linePattern l)) = .ok (deliveryOf l) := by
  cases l <;> rfl

/-- Settles O5: the command port is the sample's one agent. -/
theorem stepRunsDecodedCommand : Obligations.StepRunsDecodedCommand := by
  unfold Obligations.StepRunsDecodedCommand
  intro s p later i hcfg hlive hin hrst hcmd hirq hdec
  have hrest : pendingAgents (clearAgent p .cmd) = [] := pendingAgents_of_none rfl hirq
  rw [step_of_soleAgent hcfg hlive hin hrst (pendingAgents_of_command hcmd hirq) hrest]
  exact runWord_of_decode hdec _

/-- Settles O6: the pulsing line is the sample's one agent. -/
theorem stepRunsDelivery : Obligations.StepRunsDelivery := by
  unfold Obligations.StepRunsDelivery
  intro s p later l hcfg hlive hin hrst hcmd hirq
  have hrest : pendingAgents (clearAgent p (.irq l)) = [] :=
    pendingAgents_of_none hcmd (by simp [clearAgent, hirq])
  rw [step_of_soleAgent hcfg hlive hin hrst (pendingAgents_of_pulse hcmd hirq) hrest]
  exact runWord_of_decode (decode_linePattern l) _

/-! ## What an instruction can do -/

/-- Every way an instruction ends in a next state, with the condition under which it ends so: the commands that complete
(R83, R85, R106, R107, R130 to R132, R146, R147), a command's fault entry (R163), and the four ends of a delivery (R121, R126). -/
inductive Effect (s : State) : Instr → State → Prop
  | decode : Effect s .decode (s.respond (Response.time (decodeBlock s.cfg s.bus.bIn)))
  | encode : Effect s .encode (s.respond (Response.block (encodeBlock s.cfg s.bus.tIn s.bus.bIn)))
  | advance (hvalid : ValidIn s) (hne : calOfBus s.bus.tIn ≠ lastTime s.cfg.yearMax) :
      Effect s .advance (s.respond (Response.time (busOfCal (carrySecond (calOfBus s.bus.tIn)))))
  | retreat (hvalid : ValidIn s) (hne : calOfBus s.bus.tIn ≠ firstTime) :
      Effect s .retreat (s.respond (Response.time (busOfCal (borrowSecond (calOfBus s.bus.tIn)))))
  | lineCfg (hreserved : dReserved s.bus.dIn = 0) :
      Effect s .lineCfg ((s.setActive (dLines s.bus.dIn)).respond Response.done)
  | lineCfgReserved (hreserved : dReserved s.bus.dIn ≠ 0) : Effect s .lineCfg (s.respond Response.unsupported)
  | lineStat : Effect s .lineStat (s.respond (Response.scalar (s.active.setWidth 16)))
  | evPop : Effect s .evPop ((s.setEvq s.evq.tail).respond (Response.scalar (popEvent s.evq).1))
  | setRate (hpos : 1 ≤ s.bus.dIn.toNat) (hle : s.bus.dIn.toNat ≤ 1024) :
      Effect s .setRate ((s.setPticks (tickDiv s.bus.dIn)).respond Response.done)
  | getRate {n : BitVec 16} (hset : s.pticks = some n) (hne : n ≠ 0) :
      Effect s .getRate (s.respond (Response.scalar (tickDiv n)))
  | commandFault {i : Instr} {c : FaultCode} (hcommand : isDelivery i = false) (hcause : FaultCause c i s) :
      Effect s i ((s.setFault c).respond (Response.faulted c))
  | inactive {l : Line} (hinactive : s.lineActive l = false) : Effect s (deliveryOf l) s.silent
  | merge {l : Line} (hactive : s.lineActive l = true) (hmerge : s.cfg.evCoalesce = true ∧ lineEvent l ∈ s.evq) :
      Effect s (deliveryOf l) s.silent
  | overflow {l : Line} (hcause : FaultCause .evqOverflow (deliveryOf l) s) :
      Effect s (deliveryOf l) (s.setFault .evqOverflow).silent
  | append {l : Line} (hactive : s.lineActive l = true)
      (hnew : ¬ (s.cfg.evCoalesce = true ∧ lineEvent l ∈ s.evq)) (hroom : s.cfg.evqDepth ≠ some s.evq.length) :
      Effect s (deliveryOf l) (s.setEvq (s.evq ++ [lineEvent l])).silent

@[simp] theorem isDelivery_deliveryOf (l : Line) : isDelivery (deliveryOf l) = true := by
  cases l <;> rfl

theorem popEvent_snd (q : List EventWord) : (popEvent q).2 = q.tail := by
  cases q <;> rfl

/-- ADVANCE and RETREAT differ in the time that has no result and in the chain that gives the result. -/
theorem adjust_effect {i : Instr} {edge : CalTime} {f : CalTime → CalTime} {s s' : State}
    (hi : i = .advance ∨ i = .retreat) (hrange : ValidIn s → calOfBus s.bus.tIn = edge → FaultCause .adjRange i s)
    (hdone : ValidIn s → calOfBus s.bus.tIn ≠ edge →
      Effect s i (s.respond (Response.time (busOfCal (f (calOfBus s.bus.tIn))))))
    (h : adjust edge f s = .next s') : Effect s i s' := by
  have hcommand : isDelivery i = false := by rcases hi with rfl | rfl <;> rfl
  obtain ⟨hinvalid, rfl⟩ | ⟨hvalid, hedge, rfl⟩ | ⟨hvalid, hne, rfl⟩ := adjust_next h
  · exact .commandFault hcommand ⟨hi, by simp [hinvalid]⟩
  · exact .commandFault hcommand (hrange hvalid hedge)
  · exact hdone hvalid hne

theorem deliver_effect {l : Line} {s s' : State} (h : deliver l s = .next s') : Effect s (deliveryOf l) s' := by
  obtain ⟨hinactive, rfl⟩ | ⟨hactive, hq⟩ := deliver_next h
  · exact .inactive hinactive
  · obtain ⟨hcoalesce, hmem, rfl⟩ | ⟨hnew, hfull, rfl⟩ | ⟨hnew, hroom, rfl⟩ := enqueue_next hq
    · exact .merge hactive ⟨hcoalesce, hmem⟩
    · exact .overflow ⟨l, rfl, hactive, hnew, hfull⟩
    · exact .append hactive hnew hroom

theorem execLineCfg_effect {s s' : State} (h : execLineCfg s = .next s') : Effect s .lineCfg s' := by
  obtain ⟨-, h⟩ := whenLive_next h
  split at h
  · rename_i hreserved
    cases h
    exact .lineCfg hreserved
  · rename_i hreserved
    cases h
    exact .lineCfgReserved hreserved

theorem execEvPop_next {s s' : State} (h : execEvPop s = .next s') :
    s' = (s.setEvq s.evq.tail).respond (Response.scalar (popEvent s.evq).1) := by
  obtain ⟨-, h⟩ := whenLive_next h
  rw [popEvent_snd] at h
  cases h
  rfl

theorem execSetRate_effect {s s' : State} (h : execSetRate s = .next s') : Effect s .setRate s' := by
  obtain ⟨-, h⟩ := whenLive_next h
  split at h
  · rename_i hbad
    rw [raiseOnCommand_next h]
    exact .commandFault rfl ⟨rfl, hbad⟩
  · rename_i hgood
    obtain ⟨hne, hle⟩ := not_or.mp hgood
    have hne' : s.bus.dIn.toNat ≠ 0 := fun h0 => hne (BitVec.eq_of_toNat_eq h0)
    cases h
    exact .setRate (by omega) (Nat.le_of_not_lt hle)

theorem execGetRate_effect {s s' : State} (h : execGetRate s = .next s') : Effect s .getRate s' := by
  obtain ⟨-, h⟩ := whenLive_next h
  split at h
  · rename_i hunset
    rw [raiseOnCommand_next h]
    exact .commandFault rfl ⟨rfl, hunset⟩
  · rename_i n hset
    split at h
    · cases h
    · rename_i hne
      cases h
      exact .getRate hset hne

/-- Only a live block runs an instruction. -/
theorem exec_next_live {i : Instr} {s s' : State} (h : exec i s = .next s') : s.fault = none := by
  cases i <;> exact (whenLive_next h).1

/-- Everything an instruction can do when it answers a next state. -/
theorem exec_effect {i : Instr} {s s' : State} (h : exec i s = .next s') : Effect s i s' := by
  cases i with
  | decode =>
    cases (whenLive_next h).2
    exact .decode
  | encode =>
    cases (whenLive_next h).2
    exact .encode
  | advance =>
    exact adjust_effect (.inl rfl) (fun hvalid hedge => ⟨hvalid, .inl ⟨rfl, hedge⟩⟩) .advance (whenLive_next h).2
  | retreat =>
    exact adjust_effect (.inr rfl) (fun hvalid hedge => ⟨hvalid, .inr ⟨rfl, hedge⟩⟩) .retreat (whenLive_next h).2
  | lineCfg => exact execLineCfg_effect h
  | lineStat =>
    cases (whenLive_next h).2
    exact .lineStat
  | evPop =>
    rw [execEvPop_next h]
    exact .evPop
  | setRate => exact execSetRate_effect h
  | getRate => exact execGetRate_effect h
  | irqAlarm => exact deliver_effect (l := .alarm) (whenLive_next h).2
  | irqTick => exact deliver_effect (l := .tickSecond) (whenLive_next h).2
  | irqPeriodic => exact deliver_effect (l := .tickPeriodic) (whenLive_next h).2

/-! ## The frame of an instruction -/

section Frame

variable {i : Instr} {s s' : State} (h : Effect s i s')

include h

theorem effect_active (hi : i ≠ .lineCfg) : s'.active = s.active := by
  cases h with
  | lineCfg => exact absurd rfl hi
  | _ => rfl

theorem effect_pticks (hi : i ≠ .setRate) : s'.pticks = s.pticks := by
  cases h with
  | setRate => exact absurd rfl hi
  | _ => rfl

/-- EVQ stays, loses its head to EVPOP, or takes the event of a delivery that does not merge and has room (R126). -/
theorem effect_evq : s'.evq = s.evq ∨ (i = .evPop ∧ s'.evq = s.evq.tail) ∨
    ∃ l, i = deliveryOf l ∧ ¬ (s.cfg.evCoalesce = true ∧ lineEvent l ∈ s.evq) ∧
      s.cfg.evqDepth ≠ some s.evq.length ∧ s'.evq = s.evq ++ [lineEvent l] := by
  cases h with
  | evPop => exact .inr (.inl ⟨rfl, rfl⟩)
  | append hactive hnew hroom => exact .inr (.inr ⟨_, rfl, hnew, hroom, rfl⟩)
  | _ => exact .inl rfl

/-- FAULT stays, or takes a code whose cause holds (R163). -/
theorem effect_fault : s'.fault = s.fault ∨ ∃ c, FaultCause c i s ∧ s'.fault = some c := by
  cases h with
  | commandFault hcommand hcause => exact .inr ⟨_, hcause, rfl⟩
  | overflow hcause => exact .inr ⟨_, hcause, rfl⟩
  | _ => exact .inl rfl

/-- What is no block state stays, but for the response. -/
theorem effect_ports : s'.bus = s.bus ∧ s'.inputs = s.inputs ∧ s'.draws = s.draws ∧ s'.cfg = s.cfg := by
  cases h <;> exact ⟨rfl, rfl, rfl, rfl⟩

theorem effect_cfg : s'.cfg = s.cfg := by
  obtain ⟨-, -, -, hcfg⟩ := effect_ports h
  exact hcfg

theorem effect_evq_of_command (hi : i ≠ .evPop) (hcommand : isDelivery i = false) : s'.evq = s.evq := by
  obtain hsame | ⟨rfl, -⟩ | ⟨l, rfl, -⟩ := effect_evq h
  · exact hsame
  · exact absurd rfl hi
  · simp at hcommand

theorem effect_evq_of_delivery (hdelivery : isDelivery i = true) :
    s'.evq = s.evq ∨ ∃ ev, s'.evq = s.evq ++ [ev] := by
  obtain hsame | ⟨rfl, -⟩ | ⟨l, -, -, -, happend⟩ := effect_evq h
  · exact .inl hsame
  · cases hdelivery
  · exact .inr ⟨_, happend⟩

end Frame

/-- Settles O55, a field of the state at a time. -/
theorem frameOfEveryInstruction : Obligations.FrameOfEveryInstruction := by
  unfold Obligations.FrameOfEveryInstruction
  intro s s' i h
  have heff := exec_effect h
  refine ⟨effect_active heff, effect_pticks heff, effect_evq_of_command heff, ?_, effect_evq_of_delivery heff,
    effect_fault heff, effect_ports heff⟩
  rintro rfl
  rw [execEvPop_next h]
  rfl

/-! ## What a command drives -/

/-- R30 of one command's response: with OK a value on exactly the buses the command's rule names, else on none. -/
def DrivesItsOutputs (i : Instr) (r : Response) : Prop :=
  (r.status = .ok →
    (r.tOut.isSome = true ↔ i = .decode ∨ i = .advance ∨ i = .retreat) ∧ (r.bOut.isSome = true ↔ i = .encode) ∧
      (r.dOut.isSome = true ↔ i = .lineStat ∨ i = .evPop ∨ i = .getRate)) ∧
  (r.status ≠ .ok → r.tOut = none ∧ r.bOut = none ∧ r.dOut = none)

theorem drivesItsOutputs_time {i : Instr} (v : TBus) (hi : i = .decode ∨ i = .advance ∨ i = .retreat) :
    DrivesItsOutputs i (Response.time v) := by
  rcases hi with rfl | rfl | rfl <;> simp [DrivesItsOutputs, Response.time]

theorem drivesItsOutputs_block (v : BBus) : DrivesItsOutputs .encode (Response.block v) := by
  simp [DrivesItsOutputs, Response.block]

theorem drivesItsOutputs_scalar {i : Instr} (v : DBus) (hi : i = .lineStat ∨ i = .evPop ∨ i = .getRate) :
    DrivesItsOutputs i (Response.scalar v) := by
  rcases hi with rfl | rfl | rfl <;> simp [DrivesItsOutputs, Response.scalar]

theorem drivesItsOutputs_done {i : Instr} (hi : i = .lineCfg ∨ i = .setRate) : DrivesItsOutputs i Response.done := by
  rcases hi with rfl | rfl <;> simp [DrivesItsOutputs, Response.done]

theorem drivesItsOutputs_unsupported (i : Instr) : DrivesItsOutputs i Response.unsupported := by
  simp [DrivesItsOutputs, Response.unsupported]

theorem drivesItsOutputs_faulted (i : Instr) (c : FaultCode) : DrivesItsOutputs i (Response.faulted c) := by
  simp [DrivesItsOutputs, Response.faulted]

/-- A delivery answers nothing (R127), a command answers on its own outputs. -/
theorem effect_resp {i : Instr} {s s' : State} (h : Effect s i s') :
    (isDelivery i = true ∧ s'.resp = none) ∨
      (isDelivery i = false ∧ ∃ r, s'.resp = some r ∧ DrivesItsOutputs i r) := by
  cases h with
  | decode => exact .inr ⟨rfl, _, rfl, drivesItsOutputs_time _ (by simp)⟩
  | encode => exact .inr ⟨rfl, _, rfl, drivesItsOutputs_block _⟩
  | advance => exact .inr ⟨rfl, _, rfl, drivesItsOutputs_time _ (by simp)⟩
  | retreat => exact .inr ⟨rfl, _, rfl, drivesItsOutputs_time _ (by simp)⟩
  | lineCfg => exact .inr ⟨rfl, _, rfl, drivesItsOutputs_done (by simp)⟩
  | lineCfgReserved => exact .inr ⟨rfl, _, rfl, drivesItsOutputs_unsupported _⟩
  | lineStat => exact .inr ⟨rfl, _, rfl, drivesItsOutputs_scalar _ (by simp)⟩
  | evPop => exact .inr ⟨rfl, _, rfl, drivesItsOutputs_scalar _ (by simp)⟩
  | setRate => exact .inr ⟨rfl, _, rfl, drivesItsOutputs_done (by simp)⟩
  | getRate => exact .inr ⟨rfl, _, rfl, drivesItsOutputs_scalar _ (by simp)⟩
  | commandFault hcommand => exact .inr ⟨hcommand, _, rfl, drivesItsOutputs_faulted _ _⟩
  | inactive => exact .inl ⟨isDelivery_deliveryOf _, rfl⟩
  | merge => exact .inl ⟨isDelivery_deliveryOf _, rfl⟩
  | overflow => exact .inl ⟨isDelivery_deliveryOf _, rfl⟩
  | append => exact .inl ⟨isDelivery_deliveryOf _, rfl⟩

/-- Settles O54: each command's response drives the outputs that its rule names. -/
theorem commandDrivesOnlyItsOutputs : Obligations.CommandDrivesOnlyItsOutputs := by
  unfold Obligations.CommandDrivesOnlyItsOutputs
  intro s s' i h
  obtain ⟨hdelivery, hnone⟩ | ⟨hcommand, hanswer⟩ := effect_resp (exec_effect h)
  · exact ⟨fun _ => hnone, fun hcommand => by simp [hdelivery] at hcommand⟩
  · exact ⟨fun hdelivery => by simp [hcommand] at hdelivery, fun _ => hanswer⟩

/-! ## The units without state -/

/-- What ADVANCE and RETREAT answer to T_IN `t` under the year bound `yearMax`. -/
def adjustResponse (edge : CalTime) (f : CalTime → CalTime) (yearMax : Nat) (t : TBus) : Response :=
  if validTime yearMax (calOfBus t) then
    if calOfBus t = edge then Response.faulted .adjRange else Response.time (busOfCal (f (calOfBus t)))
  else Response.faulted .adjDomain

theorem adjust_resp (edge : CalTime) (f : CalTime → CalTime) (s : State) :
    ∃ s', adjust edge f s = .next s' ∧ s'.resp = some (adjustResponse edge f s.cfg.yearMax s.bus.tIn) := by
  unfold adjust adjustResponse
  split
  · split <;> exact ⟨_, rfl, rfl⟩
  · exact ⟨_, rfl, rfl⟩

/-- In a live block the response of `i` is `answer` of the operand buses and the parameters. -/
def AnswersBy (i : Instr) (answer : Buses → Config → Response) : Prop :=
  ∀ s : State, s.fault = none → ∃ s', exec i s = .next s' ∧ s'.resp = some (answer s.bus s.cfg)

theorem answersBy_decode : AnswersBy .decode fun b c => Response.time (decodeBlock c b.bIn) :=
  fun _ hlive => ⟨_, whenLive_live hlive _, rfl⟩

theorem answersBy_encode : AnswersBy .encode fun b c => Response.block (encodeBlock c b.tIn b.bIn) :=
  fun _ hlive => ⟨_, whenLive_live hlive _, rfl⟩

theorem answersBy_advance :
    AnswersBy .advance fun b c => adjustResponse (lastTime c.yearMax) carrySecond c.yearMax b.tIn := by
  intro s hlive
  obtain ⟨s', hadjust, hresp⟩ := adjust_resp (lastTime s.cfg.yearMax) carrySecond s
  exact ⟨s', (whenLive_live hlive _).trans hadjust, hresp⟩

theorem answersBy_retreat : AnswersBy .retreat fun b c => adjustResponse firstTime borrowSecond c.yearMax b.tIn := by
  intro s hlive
  obtain ⟨s', hadjust, hresp⟩ := adjust_resp firstTime borrowSecond s
  exact ⟨s', (whenLive_live hlive _).trans hadjust, hresp⟩

/-- R22: each of the four commands answers by some function of its inputs and the parameters. -/
theorem exists_answersBy {i : Instr} (hi : i = .decode ∨ i = .encode ∨ i = .advance ∨ i = .retreat) :
    ∃ answer, AnswersBy i answer := by
  rcases hi with rfl | rfl | rfl | rfl
  · exact ⟨_, answersBy_decode⟩
  · exact ⟨_, answersBy_encode⟩
  · exact ⟨_, answersBy_advance⟩
  · exact ⟨_, answersBy_retreat⟩

/-- Settles O23: one function of the buses and the parameters gives both responses. -/
theorem statelessUnitsIgnoreState : Obligations.StatelessUnitsIgnoreState := by
  unfold Obligations.StatelessUnitsIgnoreState
  intro i s1 s2 hi hlive1 hlive2 hbus hcfg
  obtain ⟨answer, hanswer⟩ := exists_answersBy hi
  obtain ⟨t1, hexec1, hresp1⟩ := hanswer s1 hlive1
  obtain ⟨t2, hexec2, hresp2⟩ := hanswer s2 hlive2
  exact ⟨t1, t2, hexec1, hexec2, by rw [hresp1, hresp2, hbus, hcfg]⟩

/-! ## What a machine step can do -/

/-- The state an agent's turn starts in: the block as it was, with other ports and another count of choices. -/
def withPorts (s : State) (inputs : List InPorts) (bus : Buses) (draws : Nat) : State :=
  { s with inputs := inputs, bus := bus, draws := draws }

@[simp] theorem withPorts_fault (s : State) (inputs : List InPorts) (bus : Buses) (draws : Nat) :
    (withPorts s inputs bus draws).fault = s.fault := rfl

@[simp] theorem withPorts_cfg (s : State) (inputs : List InPorts) (bus : Buses) (draws : Nat) :
    (withPorts s inputs bus draws).cfg = s.cfg := rfl

/-- Every way a machine step ends in a next state: a presented reset (R180), nothing driven, UNSUPPORTED (R161), or the end of
the instruction whose turn it is. -/
inductive StepEffect (s : State) : State → Prop
  | reset {p : InPorts} {inputs : List InPorts} (hmem : p ∈ s.inputs) (hrst : p.rst = true) :
      StepEffect s (State.resetBlock { s with inputs := inputs })
  | silent {inputs : List InPorts} {bus : Buses} {draws : Nat} : StepEffect s (withPorts s inputs bus draws).silent
  | unsupported {inputs : List InPorts} {bus : Buses} {draws : Nat} :
      StepEffect s ((withPorts s inputs bus draws).respond Response.unsupported)
  | instr {w : PortWord} {i : Instr} {inputs : List InPorts} {bus : Buses} {draws : Nat} {s' : State}
      (hfetch : fetch s = .turn w (withPorts s inputs bus draws)) (hdecode : decode w = .ok i)
      (hexec : exec i (withPorts s inputs bus draws) = .next s') : StepEffect s s'

theorem fetch_quiet_effect {s s' : State} (h : fetch s = .quiet s') : StepEffect s s' := by
  obtain ⟨lost, p, later, hin, hrst, -, -, rfl⟩ | ⟨-, ⟨-, rfl⟩ | ⟨p, later, -, -, -, rfl⟩⟩ := fetch_quiet h
  · exact .reset (p := p) (by simp [hin]) hrst
  · exact .silent (inputs := s.inputs) (bus := s.bus) (draws := s.draws)
  · exact .silent (inputs := later) (bus := s.bus) (draws := s.draws)

theorem rejectWord_effect (e : DecodeError) (s : State) (inputs : List InPorts) (bus : Buses) (draws : Nat) :
    StepEffect s (rejectWord e (withPorts s inputs bus draws)) := by
  cases e with
  | unrecognised w => exact .unsupported
  | noPulse => exact .silent
  | severalPulses p => exact .silent

/-- Everything a machine step can do when it answers a next state. -/
theorem step_effect {s s' : State} (h : step s = .next s') : StepEffect s s' := by
  obtain ⟨-, hquiet | ⟨w, s1, hfetch, hrun⟩⟩ := step_next h
  · exact fetch_quiet_effect hquiet
  · obtain ⟨-, p, later, a, n, -, -, -, -, hs1⟩ := fetch_turn hfetch
    change s1 = withPorts s (remaining p a later) (agentBuses s p a) n at hs1
    subst hs1
    obtain ⟨i, hdecode, hexec⟩ | ⟨e, -, rfl⟩ := hrun
    · exact .instr hfetch hdecode hexec
    · exact rejectWord_effect e s _ _ _

/-- Settles O12: no instruction and no reset writes the parameters. -/
theorem stepKeepsParameters : Obligations.StepKeepsParameters := by
  unfold Obligations.StepKeepsParameters
  intro s s' h
  cases step_effect h with
  | reset => rfl
  | silent => rfl
  | unsupported => rfl
  | instr _ _ hexec => rw [effect_cfg (exec_effect hexec), withPorts_cfg]

/-- Settles O53: a step's reset clears FAULT, its instruction may enter a fault, and its other ends leave FAULT. -/
theorem faultRegisterChangesOnlyByEntryOrReset : Obligations.FaultRegisterChangesOnlyByEntryOrReset := by
  unfold Obligations.FaultRegisterChangesOnlyByEntryOrReset
  refine ⟨rfl, fun s => Option.isSome_iff_ne_none, fun s s' h => ?_⟩
  cases step_effect h with
  | reset hmem hrst => exact .inr (.inl ⟨rfl, _, hmem, hrst⟩)
  | silent => exact .inl rfl
  | unsupported => exact .inl rfl
  | instr hfetch hdecode hexec =>
    have hlive := exec_next_live hexec
    obtain hsame | ⟨c, hcause, hc⟩ := effect_fault (exec_effect hexec)
    · exact .inl (hsame.trans (withPorts_fault ..))
    · exact .inr (.inr ⟨hlive, _, _, _, c, hfetch, hdecode, hexec, hcause, hc⟩)

/-! ## The block's invariant -/

theorem tickDiv_toNat (n : BitVec 16) : (tickDiv n).toNat = 1024 / n.toNat := by
  have hle : 1024 / n.toNat ≤ 1024 := Nat.div_le_self 1024 n.toNat
  rw [tickDiv, tickBase, BitVec.toNat_ofNat, Nat.mod_eq_of_lt (by omega)]

/-- The divisor of an accepted rate is itself 1 to `TICK_BASE` (R146). -/
theorem tickDiv_legal {n : BitVec 16} (hpos : 1 ≤ n.toNat) (hle : n.toNat ≤ 1024) :
    1 ≤ (tickDiv n).toNat ∧ (tickDiv n).toNat ≤ 1024 := by
  rw [tickDiv_toNat]
  exact ⟨(Nat.one_le_div_iff hpos).mpr hle, Nat.div_le_self 1024 n.toNat⟩

theorem lineEvent_legal (l : Line) : lineEvent l = 0x8001 ∨ lineEvent l = 0x8002 ∨ lineEvent l = 0x8003 := by
  cases l <;> simp [lineEvent]

section Invariant

variable {i : Instr} {s s' : State} (h : Effect s i s')

include h

/-- Only SETRATE writes PTICKS, and what it writes is legal (R146). -/
theorem effect_pticksLegal (hinv : PticksLegal s) : PticksLegal s' := by
  cases h with
  | setRate hpos hle =>
    intro n hn
    obtain rfl : tickDiv s.bus.dIn = n := Option.some.inj hn
    exact tickDiv_legal hpos hle
  | _ => exact hinv

theorem effect_eventsLegal (hinv : EventsLegal s) : EventsLegal s' := by
  intro e he
  obtain hsame | ⟨-, htail⟩ | ⟨l, -, -, -, happend⟩ := effect_evq h
  · exact hinv e (hsame ▸ he)
  · exact hinv e (List.mem_of_mem_tail (htail ▸ he))
  · rw [happend, List.mem_append, List.mem_singleton] at he
    obtain he | rfl := he
    · exact hinv e he
    · exact lineEvent_legal l

/-- A delivery appends below the capacity only, so the queue's length stays at most the capacity (R29). -/
theorem effect_depthRespected (hinv : DepthRespected s) : DepthRespected s' := by
  intro n hn
  rw [effect_cfg h] at hn
  have hle : s.evq.length ≤ n := hinv n hn
  obtain hsame | ⟨-, htail⟩ | ⟨l, -, -, hroom, happend⟩ := effect_evq h
  · rwa [hsame]
  · rw [htail, List.length_tail]
    omega
  · have hne : s.evq.length ≠ n := fun heq => hroom (heq ▸ hn)
    rw [happend, List.length_append, List.length_singleton]
    omega

/-- Under `EV_COALESCE` a delivery appends only an event that is not queued (R126). -/
theorem effect_coalescedOnce (hinv : CoalescedOnce s) : CoalescedOnce s' := by
  intro hcoalesce
  rw [effect_cfg h] at hcoalesce
  have hnodup : s.evq.Nodup := hinv hcoalesce
  obtain hsame | ⟨-, htail⟩ | ⟨l, -, hnew, -, happend⟩ := effect_evq h
  · rwa [hsame]
  · rw [htail]
    exact hnodup.tail
  · have hnotin : lineEvent l ∉ s.evq := fun hmem => hnew ⟨hcoalesce, hmem⟩
    rw [happend, ← List.concat_eq_append]
    exact hnodup.concat hnotin

theorem effect_responseLegal : ResponseLegal s' := by
  intro r hr
  obtain ⟨-, hnone⟩ | ⟨-, r', hr', -, hnovalue⟩ := effect_resp h
  · simp [hnone] at hr
  · obtain rfl : r' = r := Option.some.inj (hr'.symm.trans hr)
    exact hnovalue

/-- Every instruction keeps the invariant. -/
theorem effect_blockInv (hinv : BlockInv s) : BlockInv s' := by
  obtain ⟨hpticks, hevents, hdepth, honce, -⟩ := hinv
  exact ⟨effect_pticksLegal h hpticks, effect_eventsLegal h hevents, effect_depthRespected h hdepth,
    effect_coalescedOnce h honce, effect_responseLegal h⟩

end Invariant

/-- The invariant speaks of the block's registers, its response and the parameters, and not of the ports it reads. -/
theorem blockInv_withPorts {s : State} (hinv : BlockInv s) (inputs : List InPorts) (bus : Buses) (draws : Nat) :
    BlockInv (withPorts s inputs bus draws) := hinv

theorem blockInv_silent {s : State} (hinv : BlockInv s) : BlockInv s.silent := by
  obtain ⟨hpticks, hevents, hdepth, honce, -⟩ := hinv
  exact ⟨hpticks, hevents, hdepth, honce, nofun⟩

theorem blockInv_unsupported {s : State} (hinv : BlockInv s) : BlockInv (s.respond Response.unsupported) := by
  obtain ⟨hpticks, hevents, hdepth, honce, -⟩ := hinv
  refine ⟨hpticks, hevents, hdepth, honce, fun r hr _ => ?_⟩
  cases hr
  exact ⟨rfl, rfl, rfl⟩

/-- Settles O3: a reset establishes the invariant anew, and every other end of a step keeps it. -/
theorem stepKeepsInvariant : Obligations.StepKeepsInvariant := by
  unfold Obligations.StepKeepsInvariant
  intro s s' hinv h
  cases step_effect h with
  | reset => exact blockInv_of_cleared rfl rfl rfl
  | silent => exact blockInv_silent (blockInv_withPorts hinv _ _ _)
  | unsupported => exact blockInv_unsupported (blockInv_withPorts hinv _ _ _)
  | instr _ _ hexec => exact effect_blockInv (exec_effect hexec) (blockInv_withPorts hinv _ _ _)

end Sys2Proof.Proofs

/-! The order of the agents presented together, the step in which none is presented, and what the repetition of a command
gives (20_memory.md). -/

namespace Sys2Proof.Proofs

open Sys2Proof.Machine Sys2Proof.Safety

/-! ## A step gives one presented agent its turn -/

/-- A live block whose first sample presents an agent runs the word of one of its agents, the others staying presented; the
draw count may have advanced. -/
theorem step_of_presentedAgents {s : State} {p : InPorts} {later : List InPorts} (hcfg : s.cfg.wellFormed = true)
    (hlive : s.fault = none) (hin : s.inputs = p :: later) (hrst : p.rst = false) (hpending : pendingAgents p ≠ []) :
    ∃ a n, a ∈ pendingAgents p ∧
      step s = runWord (agentWord p a) (withPorts s (remaining p a later) (agentBuses s p a) n) := by
  rw [step_allowed hcfg]
  cases hfetch : fetch s with
  | quiet s1 =>
    obtain ⟨lost, q, rest, hin', hq, -, hlost, -⟩ | ⟨-, ⟨hin', -⟩ | ⟨q, rest, hin', -, hnone, -⟩⟩ := fetch_quiet hfetch
    · obtain rfl := hlost hlive
      obtain ⟨rfl, rfl⟩ := List.cons.inj (hin.symm.trans hin')
      exact absurd hq (Bool.eq_false_iff.mp hrst)
    · exact absurd (hin.symm.trans hin') (List.cons_ne_nil p later)
    · obtain ⟨rfl, rfl⟩ := List.cons.inj (hin.symm.trans hin')
      exact absurd hnone hpending
  | stuck c =>
    obtain ⟨hfault, -⟩ := fetch_stuck.mp hfetch
    simp [hlive] at hfault
  | turn w s1 =>
    obtain ⟨-, q, rest, a, n, hin', -, ha, rfl, rfl⟩ := fetch_turn hfetch
    obtain ⟨rfl, rfl⟩ := List.cons.inj (hin.symm.trans hin')
    exact ⟨a, n, ha, rfl⟩

theorem decodeCommand_eq_error {w : CmdWord} {e : DecodeError} (h : decodeCommand w = .error e) : e = .unrecognised w := by
  unfold decodeCommand at h
  split at h <;> cases h
  rfl

/-- The only word of an agent that is no instruction is an unrecognised command: each agent's pulse is a delivery (R69). -/
theorem runWord_of_decode_error {p : InPorts} {a : Agent} {e : DecodeError} (h : decode (agentWord p a) = .error e)
    (s : State) : runWord (agentWord p a) s = .next (s.respond Response.unsupported) := by
  cases a with
  | cmd =>
    obtain rfl := decodeCommand_eq_error h
    simp only [runWord, h, rejectWord]
  | irq l => simp [agentWord, decode_linePattern] at h

/-- Settles O7: the step is the turn of the agent that the free choice names. -/
theorem stepServesOnePresentedAgent : Obligations.StepServesOnePresentedAgent := by
  unfold Obligations.StepServesOnePresentedAgent
  intro s p later hcfg hlive hin hrst hpending
  obtain ⟨a, n, ha, hstep⟩ := step_of_presentedAgents hcfg hlive hin hrst hpending
  exact ⟨a, n, ha, fun i hdec => hstep.trans (runWord_of_decode hdec _),
    fun e herr => hstep.trans (runWord_of_decode_error herr _)⟩

/-! ## Two pulses in one sample -/

theorem cmd_mem_pendingAgents (p : InPorts) : Agent.cmd ∈ pendingAgents p ↔ p.cmdValid = true := by
  simp [pendingAgents]

theorem irq_mem_pendingAgents (p : InPorts) (l : Line) :
    Agent.irq l ∈ pendingAgents p ↔ p.irq.getLsbD (lineIndex l) = true := by
  cases l <;> simp [pendingAgents]

theorem getLsbD_linePattern (l x : Line) : (linePattern l).getLsbD (lineIndex x) = decide (x = l) := by
  cases l <;> cases x <;> rfl

/-- The agents of a sample with two pulses and no command. -/
theorem mem_pendingAgents_of_twoPulses {p : InPorts} {l m : Line} (hcmd : p.cmdValid = false)
    (hirq : p.irq = linePattern l ||| linePattern m) (a : Agent) :
    a ∈ pendingAgents p ↔ a = .irq l ∨ a = .irq m := by
  cases a with
  | cmd => simp [cmd_mem_pendingAgents, hcmd]
  | irq x => simp [irq_mem_pendingAgents, hirq, getLsbD_linePattern]

/-- Taking one of two pulses off leaves the other. -/
theorem linePattern_or_and_not {l m : Line} (hne : l ≠ m) :
    (linePattern l ||| linePattern m) &&& ~~~linePattern l = linePattern m := by
  cases l <;> cases m <;> simp [linePattern] at hne ⊢

/-- Once one of two lines has had its turn, the other's pulse is what is left of the sample. -/
theorem remaining_of_twoPulses {p : InPorts} {l m : Line} (hcmd : p.cmdValid = false) (hne : l ≠ m)
    (hirq : p.irq = linePattern l ||| linePattern m) (later : List InPorts) :
    remaining p (.irq l) later = { p with irq := linePattern m } :: later := by
  have hclear : clearAgent p (.irq l) = { p with irq := linePattern m } := by
    simp only [clearAgent, hirq, linePattern_or_and_not hne]
  have hpending : pendingAgents { p with irq := linePattern m } = [.irq m] := pendingAgents_of_pulse hcmd rfl
  simp only [remaining, hclear, hpending]

theorem exec_deliveryOf (l : Line) (s : State) : exec (deliveryOf l) s = whenLive s (deliver l s) := by
  cases l <;> rfl

/-- A delivery on an active line appends its event when nothing merges and the queue has no bound (R126). -/
theorem exec_deliveryOf_append {s : State} {l : Line} (hlive : s.fault = none) (hactive : s.lineActive l = true)
    (hcoalesce : s.cfg.evCoalesce = false) (hdepth : s.cfg.evqDepth = none) :
    exec (deliveryOf l) s = .next (s.setEvq (s.evq ++ [lineEvent l])).silent := by
  rw [exec_deliveryOf, whenLive_live hlive]
  simp [deliver, hactive, enqueue, hcoalesce, State.evqFull, hdepth]

/-- When `l` is given the first of two steps, `m`, whose pulse stays presented, is given the second. -/
theorem twoPulses_queue_in_order {s : State} {p : InPorts} {later : List InPorts} {l m : Line} {n : Nat}
    (hcfg : s.cfg.wellFormed = true) (hlive : s.fault = none) (hrst : p.rst = false) (hcmd : p.cmdValid = false)
    (hne : l ≠ m) (hirq : p.irq = linePattern l ||| linePattern m) (hl : s.lineActive l = true)
    (hm : s.lineActive m = true) (hcoalesce : s.cfg.evCoalesce = false) (hdepth : s.cfg.evqDepth = none)
    (hturn : step s = runWord (.pulses (linePattern l)) (withPorts s (remaining p (.irq l) later) s.bus n)) :
    ∃ s1 s2, step s = .next s1 ∧ step s1 = .next s2 ∧ s2.inputs = later ∧ s2.fault = none ∧
      s2.evq = s.evq ++ [lineEvent l, lineEvent m] := by
  rw [runWord_of_decode (decode_linePattern l), remaining_of_twoPulses hcmd hne hirq] at hturn
  have hfirst := hturn.trans (exec_deliveryOf_append hlive hl hcoalesce hdepth)
  have hsecond := stepRunsDelivery
    ((withPorts s ({ p with irq := linePattern m } :: later) s.bus n).setEvq (s.evq ++ [lineEvent l])).silent
    _ later m hcfg hlive rfl hrst hcmd rfl
  exact ⟨_, _, hfirst, hsecond.trans (exec_deliveryOf_append hlive hm hcoalesce hdepth), rfl, hlive,
    List.append_assoc ..⟩

/-- Settles O39: whichever line the free choice gives the first step, the other takes the second. -/
theorem simultaneousPulsesQueueInSomeOrder : Obligations.SimultaneousPulsesQueueInSomeOrder := by
  unfold Obligations.SimultaneousPulsesQueueInSomeOrder
  intro s p later l m hcfg hlive hin hrst hcmd hne hirq hl hm hcoalesce hdepth
  have hagents := mem_pendingAgents_of_twoPulses hcmd hirq
  have hpending : pendingAgents p ≠ [] := List.ne_nil_of_mem ((hagents (.irq l)).mpr (.inl rfl))
  obtain ⟨a, n, ha, hturn⟩ := step_of_presentedAgents hcfg hlive hin hrst hpending
  obtain rfl | rfl := (hagents a).mp ha
  · obtain ⟨s1, s2, h1, h2, hin2, hlive2, hevq⟩ :=
      twoPulses_queue_in_order hcfg hlive hrst hcmd hne hirq hl hm hcoalesce hdepth hturn
    exact ⟨s1, s2, h1, h2, hin2, hlive2, .inl hevq⟩
  · have hirq' : p.irq = linePattern m ||| linePattern l := hirq.trans (BitVec.or_comm _ _)
    obtain ⟨s1, s2, h1, h2, hin2, hlive2, hevq⟩ :=
      twoPulses_queue_in_order hcfg hlive hrst hcmd hne.symm hirq' hm hl hcoalesce hdepth hturn
    exact ⟨s1, s2, h1, h2, hin2, hlive2, .inr hevq⟩

/-! ## Nothing presented -/

/-- Settles O8: the fetch is quiet in both cases. -/
theorem idleStepChangesNothing : Obligations.IdleStepChangesNothing := by
  unfold Obligations.IdleStepChangesNothing
  intro s hcfg hlive
  refine ⟨fun hin => ?_, fun p later hin hrst hcmd hirq => ?_⟩
  · have hfetch : fetch s = .quiet s.silent := by simp only [fetch_live hlive, fetchLive, hin]
    rw [step_allowed hcfg, hfetch]
    rfl
  · have hfetch : fetch s = .quiet (State.silent { s with inputs := later }) := by
      simp [fetch_live hlive, fetchLive, hin, hrst, pendingAgents_of_none hcmd hirq]
    rw [step_allowed hcfg, hfetch]
    rfl

/-! ## Repeating a command -/

/-- An instruction that is none of the writers of ACTIVE, PTICKS and EVQ writes the response only, unless it faults. -/
theorem effect_response_only {i : Instr} {s s' : State} (h : Effect s i s') (hcommand : isDelivery i = false)
    (hactive : i ≠ .lineCfg) (hpticks : i ≠ .setRate) (hevq : i ≠ .evPop) (hfault : s'.fault = s.fault) :
    s' = { s with resp := s'.resp } := by
  obtain ⟨hbus, hinputs, hdraws, hcfg⟩ := effect_ports h
  rw [← effect_active h hactive, ← effect_pticks h hpticks, ← effect_evq_of_command h hevq hcommand, ← hfault, ← hbus,
    ← hinputs, ← hdraws, ← hcfg]

/-- Settles O57: each of the six leaves every field of the block by the frame of an instruction. -/
theorem readingCommandsWriteNoState : Obligations.ReadingCommandsWriteNoState := by
  unfold Obligations.ReadingCommandsWriteNoState
  intro s s' i hi h hlive'
  have hfault : s'.fault = s.fault := hlive'.trans (exec_next_live h).symm
  have heff := exec_effect h
  simp only [List.mem_cons, List.not_mem_nil, or_false] at hi
  rcases hi with rfl | rfl | rfl | rfl | rfl | rfl <;>
    exact effect_response_only heff rfl nofun nofun nofun hfault

/-- No instruction reads what the output ports hold, and each overwrites it (R25). -/
theorem exec_respond (i : Instr) (s : State) (r : Response) : exec i (s.respond r) = exec i s := by
  cases i <;> rfl

theorem exec_lineCfg_done {s : State} (hlive : s.fault = none) (hreserved : dReserved s.bus.dIn = 0) :
    exec .lineCfg s = .next ((s.setActive (dLines s.bus.dIn)).respond Response.done) :=
  (whenLive_live hlive _).trans (if_pos hreserved)

theorem exec_setRate_done {s : State} (hlive : s.fault = none) (hpos : 1 ≤ s.bus.dIn.toNat)
    (hle : s.bus.dIn.toNat ≤ 1024) :
    exec .setRate s = .next ((s.setPticks (tickDiv s.bus.dIn)).respond Response.done) := by
  have hgood : ¬ (s.bus.dIn = 0 ∨ tickBase < s.bus.dIn.toNat) := by
    rintro (hzero | hlt)
    · simp [hzero] at hpos
    · exact absurd hlt (Nat.not_lt.mpr hle)
  exact (whenLive_live hlive _).trans (if_neg hgood)

/-- Settles O56: LINECFG and SETRATE write what they do not read, and the others write the response only. -/
theorem commandsButEvPopAreIdempotent : Obligations.CommandsButEvPopAreIdempotent := by
  unfold Obligations.CommandsButEvPopAreIdempotent
  intro s s' i hcommand hevPop h hlive'
  cases exec_effect h with
  | lineCfg hreserved => exact exec_lineCfg_done hlive' hreserved
  | setRate hpos hle => exact exec_setRate_done hlive' hpos hle
  | evPop => exact absurd rfl hevPop
  | commandFault => cases hlive'
  | inactive => simp at hcommand
  | merge => simp at hcommand
  | overflow => cases hlive'
  | append => simp at hcommand
  | _ => exact (exec_respond ..).trans h

end Sys2Proof.Proofs

/-! The decoder against the encoder (R64, R65, R69), the buses as numbers (R61, R62), and what ENCODE writes into a block of
zeros (R85). -/

namespace Sys2Proof.Proofs

open Sys2Proof.Machine Sys2Proof.Safety

/-! ## Decoder and encoder -/

theorem decode_encode (i : Instr) : decode (encode i) = .ok i := by
  cases i <;> rfl

/-- A command word is its unit and its function, so equal numbers in both fields make equal words (R64). -/
theorem cmdWord_eq_of_fields {w v : CmdWord} (hunit : (cmdUnit w).toNat = (cmdUnit v).toNat)
    (hfn : (cmdFn w).toNat = (cmdFn v).toNat) : w = v := by
  apply BitVec.eq_of_toNat_eq
  simp only [cmdUnit, cmdFn, BitVec.extractLsb'_toNat, Nat.shiftRight_eq_div_pow] at hunit hfn
  omega

/-- Each entry of the opcode map fixes both fields of the word, and the encoder's word has the same two (R65). -/
theorem command_eq_encode {w : CmdWord} {i : Instr} (h : decodeCommand w = .ok i) : .command w = encode i := by
  unfold decodeCommand at h
  split at h <;> cases h
  all_goals
    next hunit hfn => exact congrArg PortWord.command (cmdWord_eq_of_fields hunit hfn)

theorem pulses_eq_encode {p : IrqVector} {i : Instr} (h : decodePulses p = .ok i) : .pulses p = encode i := by
  unfold decodePulses at h
  split at h <;> cases h
  all_goals
    next hp => exact congrArg PortWord.pulses (BitVec.eq_of_toNat_eq hp)

/-- Settles O14: the encoder's word decodes back, and on each port a word that decodes is the encoder's. -/
theorem decodeAndEncodeAgree : Obligations.DecodeAndEncodeAgree := by
  unfold Obligations.DecodeAndEncodeAgree
  intro w i
  constructor
  · intro h
    cases w with
    | command w => exact command_eq_encode h
    | pulses p => exact pulses_eq_encode h
  · rintro rfl
    exact decode_encode i

/-- Settles O13: the twelve words are the encoder's, and the other four fall through the opcode map. -/
theorem opcodeMapWordsDecode : Obligations.OpcodeMapWordsDecode :=
  ⟨decode_encode .decode, decode_encode .encode, decode_encode .advance, decode_encode .retreat, decode_encode .lineCfg,
    decode_encode .lineStat, decode_encode .evPop, decode_encode .setRate, decode_encode .getRate,
    decode_encode .irqAlarm, decode_encode .irqTick, decode_encode .irqPeriodic, rfl, rfl, rfl, rfl⟩

/-! ## The buses as numbers -/

/-- A field of `n` bits from bit `lo` on, as the tables of R61 and R62 place the fields of a bus. -/
theorem busField_toNat (b : BitVec 56) (lo n : Nat) : (b.extractLsb' lo n).toNat = b.toNat / 2 ^ lo % 2 ^ n := by
  rw [BitVec.extractLsb'_toNat, Nat.shiftRight_eq_div_pow]

theorem tYear_toNat (t : TBus) : (tYear t).toNat = t.toNat % 2 ^ 16 := by
  rw [tYear, busField_toNat, pow_zero, Nat.div_one]

/-- The top field of the T bus needs no remainder: nothing lies above it. -/
theorem tSecond_toNat (t : TBus) : (tSecond t).toNat = t.toNat / 2 ^ 48 := by
  have hlt : t.toNat / 2 ^ 48 < 2 ^ 8 := by
    have := t.isLt
    omega
  rw [tSecond, busField_toNat, Nat.mod_eq_of_lt hlt]

/-- Settles O15: each field is a division and a remainder of the bus's number, and the bus laws put the parts together. -/
theorem busFieldsAreAsLaidOut : Obligations.BusFieldsAreAsLaidOut := by
  unfold Obligations.BusFieldsAreAsLaidOut
  refine ⟨fun t => ?_, fun b k => busField_toNat b (8 * k.val) 8, bByte_bBus⟩
  exact ⟨tYear_toNat t, busField_toNat t 16 8, busField_toNat t 24 8, busField_toNat t 32 8, busField_toNat t 40 8,
    tSecond_toNat t, tBus_fields t⟩

/-! ## Times that fit the masks -/

/-- A field mask leaves every byte up to its own number as it is. -/
theorem and_fieldMask_eq_self {x m : Byte} (hm : m.isFieldMask = true) (hx : x.toNat ≤ m.toNat) : x &&& m = x := by
  obtain ⟨w, -, -, hw⟩ := (isFieldMask_iff m).mp hm
  have hlt : x.toNat < 2 ^ w := by
    have := Nat.two_pow_pos w
    omega
  apply BitVec.eq_of_toNat_eq
  rw [BitVec.toNat_and, hw, Nat.and_two_pow_sub_one_eq_mod, Nat.mod_eq_of_lt hlt]

/-- R103, field by field. -/
theorem validTime_iff (yearMax : Nat) (t : CalTime) : validTime yearMax t = true ↔
    (yearMin ≤ t.year ∧ t.year ≤ yearMax) ∧ (1 ≤ t.month ∧ t.month ≤ 12) ∧
      (1 ≤ t.day ∧ t.day ≤ daysInMonth t.year t.month) ∧ t.hour ≤ 23 ∧ t.minute ≤ 59 ∧ t.second ≤ 59 := by
  simp only [validTime, Bool.and_eq_true, decide_eq_true_eq, and_assoc]

theorem daysInMonth_february_le (y : Nat) : daysInMonth y 2 ≤ 31 := by
  rw [daysInMonth]
  split <;> decide

theorem daysInMonth_le {m : Nat} (h1 : 1 ≤ m) (h12 : m ≤ 12) (y : Nat) : daysInMonth y m ≤ 31 := by
  by_cases hfeb : m = 2
  · exact hfeb ▸ daysInMonth_february_le y
  · interval_cases m <;> simp [daysInMonth] at hfeb ⊢

/-- The default masks hold every field of a valid time (R6, R103). -/
theorem fitsMasks_default_of_validTime {t : TBus} (h : validTime Config.default.yearMax (calOfBus t) = true) :
    FitsMasks Config.default t := by
  obtain ⟨⟨-, hyear⟩, ⟨hmonth1, hmonth⟩, ⟨-, hday⟩, hhour, hminute, hsecond⟩ := (validTime_iff _ _).mp h
  have hday31 := hday.trans (daysInMonth_le hmonth1 hmonth _)
  refine ⟨hyear, ?_, ?_, ?_, ?_, ?_⟩
  · exact and_fieldMask_eq_self (by decide) (hmonth.trans (by decide))
  · exact and_fieldMask_eq_self (by decide) (hday31.trans (by decide))
  · exact and_fieldMask_eq_self (by decide) (hhour.trans (by decide))
  · exact and_fieldMask_eq_self (by decide) (hminute.trans (by decide))
  · exact and_fieldMask_eq_self (by decide) (hsecond.trans (by decide))

/-- Under parameters that R6 allows, masking loses no bit of a time that fits the masks. -/
theorem timeByte_and_fieldMask {c : Config} {t : TBus} (hcfg : c.wellFormed = true) (hfits : FitsMasks c t) (k : Fin 7) :
    timeByte t k &&& fieldMask c k = timeByte t k := by
  obtain ⟨hyear, hmonth, hday, hhour, hminute, hsecond⟩ := hfits
  match k with
  | 0 => exact BitVec.and_allOnes
  | 1 =>
    obtain ⟨hmask, -⟩ := (wellFormed_iff c).mp hcfg
    have hle : (timeByte t 1).toNat ≤ c.maskYearHigh.toNat := by
      have := (tYear t).isLt
      simp only [timeByte, BitVec.extractLsb'_toNat, Nat.shiftRight_eq_div_pow]
      omega
    exact and_fieldMask_eq_self (hmask 1) hle
  | 2 => exact hmonth
  | 3 => exact hday
  | 4 => exact hhour
  | 5 => exact hminute
  | 6 => exact hsecond

/-! ## ENCODE into a block of zeros -/

theorem mergeByte_zero (c : Config) (t : TBus) (k : Fin 7) : mergeByte c t 0 k = timeByte t k &&& fieldMask c k := by
  simp [mergeByte, bByte]

/-- The T bus and the B bus lay the same seven bytes out in the same order (R61, R62). -/
theorem bBus_timeByte (t : TBus) : bBus (timeByte t) = t := by
  rw [funext (timeByte_eq t)]
  exact bBus_bytes t

theorem encodeBlock_zero {c : Config} {t : TBus} (hcfg : c.wellFormed = true) (hfits : FitsMasks c t) :
    encodeBlock c t 0 = t := by
  have hbytes : mergeByte c t 0 = timeByte t :=
    funext fun k => (mergeByte_zero c t k).trans (timeByte_and_fieldMask hcfg hfits k)
  rw [encodeBlock, hbytes, bBus_timeByte]

/-- Settles O22: a valid time fits the default masks, and into a block of zeros ENCODE writes the time's bytes alone. -/
theorem timeWriteOfValidTimeIsItsBus : Obligations.TimeWriteOfValidTimeIsItsBus := by
  unfold Obligations.TimeWriteOfValidTimeIsItsBus
  intro s t hlive hcfg hvalid
  have hbus : encodeBlock s.cfg t 0 = t := by
    rw [hcfg] at hvalid ⊢
    exact encodeBlock_zero (by decide) (fitsMasks_default_of_validTime hvalid)
  obtain ⟨s', hnext, hresp⟩ := answersBy_encode { s with bus := ⟨t, 0, 0⟩ } hlive
  refine ⟨s', hnext, ?_⟩
  calc s'.bOutPort = some (encodeBlock s.cfg t 0) := by simp [State.bOutPort, hresp, Response.block]
    _ = some t := congrArg some hbus

end Sys2Proof.Proofs

/-! DECODE and ENCODE (40_timecodec.md): what each answers in a live block, the two buses byte by byte, and how the merge of
one byte and the masking of one byte undo each other (R83, R85, R86, R88 to R90). -/

namespace Sys2Proof.Proofs

open Sys2Proof.Machine Sys2Proof.Safety

/-! ## What the two commands answer -/

theorem exec_decode_live {s : State} (hlive : s.fault = none) :
    exec .decode s = .next (s.respond (Response.time (decodeBlock s.cfg s.bus.bIn))) := whenLive_live hlive _

theorem exec_encode_live {s : State} (hlive : s.fault = none) :
    exec .encode s = .next (s.respond (Response.block (encodeBlock s.cfg s.bus.tIn s.bus.bIn))) := whenLive_live hlive _

/-- Settles O16: the T bus that DECODE builds gives each of its fields back. -/
theorem decodeYieldsMaskedFields : Obligations.DecodeYieldsMaskedFields := by
  unfold Obligations.DecodeYieldsMaskedFields
  refine ⟨decode_encode .decode, fun s hlive => ⟨decodeBlock s.cfg s.bus.bIn, exec_decode_live hlive, ?_⟩⟩
  exact ⟨tYear_tBus .., tMonth_tBus .., tDay_tBus .., tHour_tBus .., tMinute_tBus .., tSecond_tBus ..⟩

/-- The year's low byte, as R85 cuts it out. -/
theorem timeByte_zero (t : TBus) : timeByte t 0 = (tYear t).setWidth 8 := rfl

/-- The year's high byte, as R85 cuts it out. -/
theorem timeByte_one (t : TBus) : timeByte t 1 = (tYear t >>> 8).setWidth 8 := rfl

/-- Settles O17: the B bus that ENCODE builds gives each merged byte back. -/
theorem encodeMergesFields : Obligations.EncodeMergesFields := by
  unfold Obligations.EncodeMergesFields
  refine ⟨decode_encode .encode, fun s hlive => ⟨encodeBlock s.cfg s.bus.tIn s.bus.bIn, exec_encode_live hlive, ?_⟩⟩
  rw [← timeByte_zero, ← timeByte_one]
  exact ⟨bByte_encodeBlock .., bByte_encodeBlock .., bByte_encodeBlock .., bByte_encodeBlock .., bByte_encodeBlock ..,
    bByte_encodeBlock .., bByte_encodeBlock ..⟩

/-! ## One byte: masking and merging -/

section Bytes
variable (c : Config) (t : TBus) (b : BBus) (k : Fin 7)

/-- R85 bit by bit: the mask picks the time's bit or the existing one. -/
theorem getElem_mergeByte {i : Nat} (hi : i < 8) :
    (mergeByte c t b k)[i] = if (fieldMask c k)[i] then (timeByte t k)[i] else (bByte b k)[i] := by
  simp only [mergeByte, BitVec.getElem_and, BitVec.getElem_or, BitVec.getElem_not]
  cases (fieldMask c k)[i] <;> simp

/-- Outside the mask a merged byte is the existing byte. -/
theorem mergeByte_and_not_fieldMask :
    mergeByte c t b k &&& ~~~(fieldMask c k) = bByte b k &&& ~~~(fieldMask c k) := by
  ext i hi
  cases hmask : (fieldMask c k)[i] <;> simp [getElem_mergeByte, hmask]

/-- Inside the mask a merged byte is the time's byte. -/
theorem mergeByte_and_fieldMask : mergeByte c t b k &&& fieldMask c k = timeByte t k &&& fieldMask c k := by
  ext i hi
  cases hmask : (fieldMask c k)[i] <;> simp [getElem_mergeByte, hmask]

/-- Merging a block's own field bits into it changes no byte. -/
theorem mergeByte_of_timeByte_eq_fieldBits (ht : timeByte t k = fieldBits c b k) : mergeByte c t b k = bByte b k := by
  ext i hi
  cases hmask : (fieldMask c k)[i] <;> simp [getElem_mergeByte, ht, fieldBits, hmask]

end Bytes

/-- Settles O18: R86 is the merge of each byte, seen outside its mask. -/
theorem encodeKeepsNonFieldBits : Obligations.EncodeKeepsNonFieldBits := by
  unfold Obligations.EncodeKeepsNonFieldBits
  intro s hlive
  refine ⟨_, encodeBlock s.cfg s.bus.tIn s.bus.bIn, exec_encode_live hlive, rfl, fun k => ?_⟩
  rw [bByte_encodeBlock, mergeByte_and_not_fieldMask]

/-! ## The block as a whole -/

/-- The year is its two bytes, the low one in the low bits (R42). -/
theorem year_eq_append (high low : Byte) : (high.setWidth 16 <<< 8) ||| low.setWidth 16 = high ++ low := by
  rw [BitVec.append_def, BitVec.shiftLeftZeroExtend_eq]
  rfl

/-- The T bus that DECODE builds is the B bus of the block's field bits: both lay their bytes out alike (R61, R62). -/
theorem decodeBlock_eq_bBus (c : Config) (b : BBus) : decodeBlock c b = bBus (fieldBits c b) := by
  apply BitVec.eq_of_toNat_eq
  rw [decodeBlock, year_eq_append, tBus_toNat, bBus_toNat, toNat_append_add]
  omega

theorem timeByte_decodeBlock (c : Config) (b : BBus) (k : Fin 7) : timeByte (decodeBlock c b) k = fieldBits c b k := by
  rw [decodeBlock_eq_bBus, timeByte_eq]
  exact bByte_bBus _ k

/-- R88 without the commands: of an encoded block DECODE sees the time's masked bytes, and masking them loses nothing. -/
theorem decodeBlock_encodeBlock {c : Config} {t : TBus} (hcfg : c.wellFormed = true) (hfits : FitsMasks c t) (e : BBus) :
    decodeBlock c (encodeBlock c t e) = t := by
  have hbytes : fieldBits c (encodeBlock c t e) = timeByte t := by
    funext k
    calc fieldBits c (encodeBlock c t e) k = mergeByte c t e k &&& fieldMask c k := by rw [fieldBits, bByte_encodeBlock]
      _ = timeByte t k &&& fieldMask c k := mergeByte_and_fieldMask c t e k
      _ = timeByte t k := timeByte_and_fieldMask hcfg hfits k
  rw [decodeBlock_eq_bBus, hbytes, bBus_timeByte]

/-- R89 without the commands. -/
theorem encodeBlock_decodeBlock (c : Config) (b : BBus) : encodeBlock c (decodeBlock c b) b = b := by
  have hbytes : mergeByte c (decodeBlock c b) b = bByte b :=
    funext fun k => mergeByte_of_timeByte_eq_fieldBits c _ b k (timeByte_decodeBlock c b k)
  rw [encodeBlock, hbytes, bBus_bytes]

theorem decodeBlock_congr {c : Config} {b b' : BBus} (h : ∀ k, fieldBits c b k = fieldBits c b' k) :
    decodeBlock c b = decodeBlock c b' := by
  rw [decodeBlock_eq_bBus, decodeBlock_eq_bBus, funext h]

/-! ## The commands one after the other -/

/-- ENCODE into `e`, then DECODE of what it answered, gives the time. -/
theorem issue_encode_decode {s : State} {t : TBus} (hlive : s.fault = none) (hcfg : s.cfg.wellFormed = true)
    (hfits : FitsMasks s.cfg t) (e : BBus) :
    ∃ s1 b s2, issue .encode ⟨t, e, 0⟩ s = .next s1 ∧ s1.bOutPort = some b ∧
      issue .decode ⟨0, b, 0⟩ s1 = .next s2 ∧ s2.tOutPort = some t :=
  ⟨_, encodeBlock s.cfg t e, _, exec_encode_live hlive, rfl, exec_decode_live hlive,
    congrArg some (decodeBlock_encodeBlock hcfg hfits e)⟩

/-- Settles O19: the default masks are among those R6 allows, and a valid time fits them. -/
theorem encodeThenDecodeReturnsTime : Obligations.EncodeThenDecodeReturnsTime := by
  unfold Obligations.EncodeThenDecodeReturnsTime
  constructor
  · intro s t e hlive hcfg hfits
    exact issue_encode_decode hlive hcfg hfits e
  · intro s t e hlive hdefault hvalid
    have hcfg : s.cfg.wellFormed = true := by
      rw [hdefault]
      decide
    have hfits : FitsMasks s.cfg t := by
      rw [hdefault] at hvalid ⊢
      exact fitsMasks_default_of_validTime hvalid
    exact issue_encode_decode hlive hcfg hfits e

/-- Settles O20: the time's bytes are the block's own field bits, so the merge gives every byte back. -/
theorem reencodeRestoresBlock : Obligations.ReencodeRestoresBlock := by
  unfold Obligations.ReencodeRestoresBlock
  intro s b hlive
  exact ⟨_, decodeBlock s.cfg b, _, exec_decode_live hlive, rfl, exec_encode_live hlive,
    congrArg some (encodeBlock_decodeBlock s.cfg b)⟩

/-- Settles O21: a block reaches DECODE's answer through its field bits alone. -/
theorem decodeSeesOnlyFieldBits : Obligations.DecodeSeesOnlyFieldBits := by
  unfold Obligations.DecodeSeesOnlyFieldBits
  intro s b b' hlive hfields
  exact ⟨_, _, exec_decode_live hlive, exec_decode_live hlive, congrArg some (decodeBlock_congr hfields)⟩

end Sys2Proof.Proofs

/-! The calendar (41_alarm_adjuster.md R101 to R105): its primitives, the days it counts, and the time axis. The bijection of
R105 comes from two facts: `from_secs` answers a valid time at the second it is asked for, and two valid times at one second
are the same time. -/

namespace Sys2Proof.Proofs

open Sys2Proof.Machine Sys2Proof.Safety

/-! ## The primitives -/

theorem isLeap_iff (y : Nat) : isLeap y = true ↔ (y % 4 = 0 ∧ y % 100 ≠ 0) ∨ y % 400 = 0 := by
  simp [isLeap]

/-- Settles O24: the five rules, each read off its definition. -/
theorem calendarPrimitivesAreGregorian : Obligations.CalendarPrimitivesAreGregorian := by
  unfold Obligations.CalendarPrimitivesAreGregorian
  refine ⟨isLeap_iff, ?_, ?_, fun _ => rfl, validTime_iff⟩
  · intro y m hlong
    fin_cases hlong <;> rfl
  · intro y m hshort
    fin_cases hshort <;> rfl

theorem daysInMonth_february_pos (y : Nat) : 1 ≤ daysInMonth y 2 := by
  rw [daysInMonth]
  split <;> decide

theorem daysInMonth_pos {m : Nat} (h1 : 1 ≤ m) (h12 : m ≤ 12) (y : Nat) : 1 ≤ daysInMonth y m := by
  by_cases hfeb : m = 2
  · exact hfeb ▸ daysInMonth_february_pos y
  · interval_cases m <;> simp [daysInMonth] at hfeb ⊢

theorem daysInYear_ge (y : Nat) : 365 ≤ daysInYear y := by
  rw [daysInYear]
  split <;> decide

/-! ## The days of the years and months before -/

theorem daysOfYears_eq_sum (n : Nat) : daysOfYears n = ∑ y ∈ Finset.Ico yearMin (yearMin + n), daysInYear y := by
  induction n with
  | zero => rfl
  | succ n ih => rw [daysOfYears, ih, ← Nat.add_assoc, Finset.sum_Ico_succ_top (Nat.le_add_right ..)]

theorem daysOfMonths_eq_sum (y n : Nat) : daysOfMonths y n = ∑ m ∈ Finset.Ico 1 (n + 1), daysInMonth y m := by
  induction n with
  | zero => rfl
  | succ n ih => rw [daysOfMonths, ih, Finset.sum_Ico_succ_top (Nat.le_add_left ..)]

/-- Settles O25: the recursions of the model are the rule's two sums. -/
theorem toSecsIsTheSumOfDays : Obligations.ToSecsIsTheSumOfDays := by
  unfold Obligations.ToSecsIsTheSumOfDays
  intro yearMax t hvalid
  obtain ⟨⟨hyear, -⟩, ⟨hmonth, -⟩, -⟩ := (validTime_iff _ _).mp hvalid
  have hyears : daysOfYears (t.year - yearMin) = ∑ y ∈ Finset.Ico yearMin t.year, daysInYear y := by
    rw [daysOfYears_eq_sum, Nat.add_sub_cancel' hyear]
  have hmonths : daysOfMonths t.year (t.month - 1) = ∑ m ∈ Finset.Ico 1 t.month, daysInMonth t.year m := by
    rw [daysOfMonths_eq_sum, Nat.sub_add_cancel hmonth]
  rw [toSecs, daysOf, hyears, hmonths]
  rfl

theorem daysOfYears_mono : Monotone daysOfYears := monotone_nat_of_le_succ fun _ => Nat.le_add_right ..

theorem daysOfMonths_mono (y : Nat) : Monotone (daysOfMonths y) := monotone_nat_of_le_succ fun _ => Nat.le_add_right ..

/-- The twelve months of a year are the year (R102, R104). -/
theorem daysOfMonths_twelve (y : Nat) : daysOfMonths y 12 = daysInYear y := by
  cases hleap : isLeap y <;> simp [daysOfMonths, daysInMonth, daysInYear, hleap]

theorem daysOfYears_next {y : Nat} (hy : yearMin ≤ y) :
    daysOfYears (y + 1 - yearMin) = daysOfYears (y - yearMin) + daysInYear y := by
  obtain ⟨n, rfl⟩ := Nat.exists_eq_add_of_le hy
  rw [Nat.add_assoc, Nat.add_sub_cancel_left, Nat.add_sub_cancel_left, daysOfYears]

theorem daysOfMonths_next {m : Nat} (hm : 1 ≤ m) (y : Nat) :
    daysOfMonths y m = daysOfMonths y (m - 1) + daysInMonth y m := by
  obtain ⟨n, rfl⟩ := Nat.exists_eq_add_of_le' hm
  rfl

/-- A day of the axis lies in one of the intervals that a running sum cuts off, and in no other. -/
theorem interval_unique {f : Nat → Nat} (hf : Monotone f) {a b d : Nat} (ha : f a ≤ d) (ha' : d < f (a + 1))
    (hb : f b ≤ d) (hb' : d < f (b + 1)) : a = b :=
  le_antisymm (Nat.lt_succ_iff.mp (hf.reflect_lt (ha.trans_lt hb'))) (Nat.lt_succ_iff.mp (hf.reflect_lt (hb.trans_lt ha')))

/-! ## Where a valid time lies on the axis -/

/-- The days of `t`'s year before `t`'s day: the part of R104's `days(t)` inside the year. -/
def dayOfYear (t : CalTime) : Nat := daysOfMonths t.year (t.month - 1) + (t.day - 1)

theorem daysOf_eq (t : CalTime) : daysOf t = daysOfYears (t.year - yearMin) + dayOfYear t := Nat.add_assoc ..

theorem daysOfYears_le_daysOf (t : CalTime) : daysOfYears (t.year - yearMin) ≤ daysOf t := by
  rw [daysOf_eq]
  exact Nat.le_add_right ..

theorem daysOfMonths_le_dayOfYear (t : CalTime) : daysOfMonths t.year (t.month - 1) ≤ dayOfYear t := Nat.le_add_right ..

section Valid
variable {yearMax : Nat} {t u : CalTime} (ht : validTime yearMax t = true) (hu : validTime yearMax u = true)
include ht

theorem dayOfYear_lt_month : dayOfYear t < daysOfMonths t.year t.month := by
  obtain ⟨-, ⟨hmonth, -⟩, ⟨hday, hdayMax⟩, -⟩ := (validTime_iff _ _).mp ht
  rw [daysOfMonths_next hmonth, dayOfYear]
  omega

theorem dayOfYear_lt : dayOfYear t < daysInYear t.year := by
  obtain ⟨-, ⟨-, hmonth⟩, -⟩ := (validTime_iff _ _).mp ht
  calc dayOfYear t < daysOfMonths t.year t.month := dayOfYear_lt_month ht
    _ ≤ daysOfMonths t.year 12 := daysOfMonths_mono _ hmonth
    _ = daysInYear t.year := daysOfMonths_twelve _

theorem daysOf_lt : daysOf t < daysOfYears (t.year - yearMin + 1) := by
  obtain ⟨⟨hyear, -⟩, -⟩ := (validTime_iff _ _).mp ht
  have := dayOfYear_lt ht
  rw [daysOf_eq, ← Nat.sub_add_comm hyear, daysOfYears_next hyear]
  omega

include hu

theorem year_eq_of_daysOf_eq (h : daysOf t = daysOf u) : t.year = u.year := by
  obtain ⟨⟨ht0, -⟩, -⟩ := (validTime_iff _ _).mp ht
  obtain ⟨⟨hu0, -⟩, -⟩ := (validTime_iff _ _).mp hu
  have hule := daysOfYears_le_daysOf u
  have hult := daysOf_lt hu
  rw [← h] at hule hult
  have := interval_unique daysOfYears_mono (daysOfYears_le_daysOf t) (daysOf_lt ht) hule hult
  omega

theorem month_eq_of_dayOfYear_eq (hyear : t.year = u.year) (h : dayOfYear t = dayOfYear u) : t.month = u.month := by
  obtain ⟨-, ⟨ht1, -⟩, -⟩ := (validTime_iff _ _).mp ht
  obtain ⟨-, ⟨hu1, -⟩, -⟩ := (validTime_iff _ _).mp hu
  have htlt := dayOfYear_lt_month ht
  have hult := dayOfYear_lt_month hu
  have hule := daysOfMonths_le_dayOfYear u
  rw [← Nat.sub_add_cancel ht1] at htlt
  rw [← Nat.sub_add_cancel hu1, ← h, ← hyear] at hult
  rw [← h, ← hyear] at hule
  have := interval_unique (daysOfMonths_mono t.year) (daysOfMonths_le_dayOfYear t) htlt hule hult
  omega

/-- `to_secs` is injective on the valid times (R105). -/
theorem eq_of_toSecs_eq (h : toSecs t = toSecs u) : t = u := by
  obtain ⟨-, -, ⟨ht1, -⟩, hth, htmi, hts⟩ := (validTime_iff _ _).mp ht
  obtain ⟨-, -, ⟨hu1, -⟩, huh, humi, hus⟩ := (validTime_iff _ _).mp hu
  simp only [toSecs] at h
  obtain ⟨hdays, hhour, hminute, hsecond⟩ :
      daysOf t = daysOf u ∧ t.hour = u.hour ∧ t.minute = u.minute ∧ t.second = u.second := by omega
  have hyear := year_eq_of_daysOf_eq ht hu hdays
  have hinYear : dayOfYear t = dayOfYear u := by
    rw [daysOf_eq, daysOf_eq, hyear] at hdays
    exact Nat.add_left_cancel hdays
  have hmonth := month_eq_of_dayOfYear_eq ht hu hyear hinYear
  have hday : t.day = u.day := by
    rw [dayOfYear, dayOfYear, hyear, hmonth] at hinYear
    omega
  cases t
  cases u
  simp_all

end Valid

theorem validTime_lastTime {yearMax : Nat} (h : yearMin ≤ yearMax) : validTime yearMax (lastTime yearMax) = true := by
  simp [validTime_iff, lastTime, daysInMonth, h]

theorem validTime_firstTime {yearMax : Nat} (h : yearMin ≤ yearMax) : validTime yearMax firstTime = true := by
  simp [validTime_iff, firstTime, daysInMonth, h]

theorem toSecs_firstTime : toSecs firstTime = 0 := rfl

/-- The axis ends with the last year's last day. -/
theorem nMax_add_one {yearMax : Nat} (h : yearMin ≤ yearMax) :
    nMax yearMax + 1 = 86400 * daysOfYears (yearMax - yearMin + 1) := by
  have htwelve : daysOfMonths yearMax 12 = daysOfMonths yearMax 11 + 31 := rfl
  rw [← Nat.sub_add_comm h, daysOfYears_next h, ← daysOfMonths_twelve, htwelve]
  simp only [nMax, toSecs, daysOf, lastTime, Nat.reduceSub]
  omega

theorem toSecs_le_nMax {yearMax : Nat} {t : CalTime} (ht : validTime yearMax t = true) : toSecs t ≤ nMax yearMax := by
  obtain ⟨⟨hyear, hyearMax⟩, -, -, hhour, hminute, hsecond⟩ := (validTime_iff _ _).mp ht
  have hend := nMax_add_one (hyear.trans hyearMax)
  have hdays : daysOf t < daysOfYears (yearMax - yearMin + 1) :=
    (daysOf_lt ht).trans_le (daysOfYears_mono (by omega))
  rw [toSecs]
  omega

/-! ## `from_secs` -/

/-- Days are enough for the years to be found: `fuel` years are passed by at most, and none has fewer than 365 days. -/
theorem splitYears_eq {fuel d : Nat} (hfuel : d < 365 * (fuel + 1)) (n : Nat) :
    ∃ k r, splitYears fuel (yearMin + n) d = (yearMin + k, r) ∧ r < daysInYear (yearMin + k) ∧
      daysOfYears k + r = daysOfYears n + d := by
  induction fuel generalizing n d with
  | zero => exact ⟨n, d, rfl, (show d < 365 by omega).trans_le (daysInYear_ge _), rfl⟩
  | succ fuel ih =>
    rw [splitYears]
    split
    · rename_i hlt
      exact ⟨n, d, rfl, hlt, rfl⟩
    · have hge := daysInYear_ge (yearMin + n)
      obtain ⟨k, r, hsplit, hr, hsum⟩ := ih (d := d - daysInYear (yearMin + n)) (by omega) (n + 1)
      refine ⟨k, r, hsplit, hr, hsum.trans ?_⟩
      rw [daysOfYears]
      omega

/-- A day of the year lies in one of its months. -/
theorem splitMonths_eq {y fuel d m : Nat} (hm : m + fuel = 11) (hd : daysOfMonths y m + d < daysOfMonths y 12) :
    ∃ k r, splitMonths y fuel (m + 1) d = (k + 1, r) ∧ k < 12 ∧ r < daysInMonth y (k + 1) ∧
      daysOfMonths y k + r = daysOfMonths y m + d := by
  induction fuel generalizing m d with
  | zero =>
    obtain rfl : m = 11 := hm
    exact ⟨11, d, rfl, by decide, Nat.lt_of_add_lt_add_left hd, rfl⟩
  | succ fuel ih =>
    rw [splitMonths]
    split
    · rename_i hlt
      exact ⟨m, d, rfl, by omega, hlt, rfl⟩
    · have hsum : daysOfMonths y (m + 1) + (d - daysInMonth y (m + 1)) = daysOfMonths y m + d := by
        rw [daysOfMonths]
        omega
      obtain ⟨k, r, hsplit, hk, hr, hkr⟩ := ih (m := m + 1) (by omega) (hsum ▸ hd)
      exact ⟨k, r, hsplit, hk, hr, hkr.trans hsum⟩

/-- The date that `from_secs` finds: a day of the calendar, and the one at which second `n` lies. -/
theorem fromSecs_date (n : Nat) :
    yearMin ≤ (fromSecs n).year ∧ (1 ≤ (fromSecs n).month ∧ (fromSecs n).month ≤ 12) ∧
      (1 ≤ (fromSecs n).day ∧ (fromSecs n).day ≤ daysInMonth (fromSecs n).year (fromSecs n).month) ∧
      daysOf (fromSecs n) = n / 86400 := by
  obtain ⟨k, r, hyears, hr, hkr⟩ := splitYears_eq (Nat.lt_mul_div_succ (n / 86400) (by decide : 0 < 365)) 0
  rw [← daysOfMonths_twelve] at hr
  obtain ⟨m, d, hmonths, hm, hd, hmd⟩ := splitMonths_eq (m := 0) (fuel := 11) rfl ((Nat.zero_add r).symm ▸ hr)
  have hyear : (fromSecs n).year = yearMin + k := congrArg Prod.fst hyears
  simp only [Nat.add_zero, Nat.zero_add] at hyears hmonths
  simp only [daysOf, fromSecs, hyears, hmonths, Nat.add_sub_cancel, Nat.add_sub_cancel_left]
  simp only [daysOfYears, daysOfMonths, Nat.zero_add] at hkr hmd
  omega

theorem toSecs_fromSecs (n : Nat) : toSecs (fromSecs n) = n := by
  obtain ⟨-, -, -, hdays⟩ := fromSecs_date n
  rw [toSecs, hdays]
  simp only [fromSecs]
  omega

theorem validTime_fromSecs {yearMax n : Nat} (h : yearMin ≤ yearMax) (hn : n ≤ nMax yearMax) :
    validTime yearMax (fromSecs n) = true := by
  obtain ⟨hyear, hmonth, hday, hdays⟩ := fromSecs_date n
  have hend := nMax_add_one h
  have hlt : daysOfYears ((fromSecs n).year - yearMin) < daysOfYears (yearMax - yearMin + 1) := by
    rw [daysOf_eq] at hdays
    omega
  have := daysOfYears_mono.reflect_lt hlt
  refine (validTime_iff _ _).mpr ⟨⟨hyear, by omega⟩, hmonth, hday, ?_⟩
  simp only [fromSecs]
  omega

theorem fromSecs_toSecs {yearMax : Nat} {t : CalTime} (ht : validTime yearMax t = true) : fromSecs (toSecs t) = t := by
  obtain ⟨⟨hyear, hyearMax⟩, -⟩ := (validTime_iff _ _).mp ht
  exact eq_of_toSecs_eq (validTime_fromSecs (hyear.trans hyearMax) (toSecs_le_nMax ht)) ht (toSecs_fromSecs _)

/-- Settles O26: `from_secs` is a right inverse of `to_secs`, and a left one since `to_secs` is injective. -/
theorem toSecsIsABijection : Obligations.ToSecsIsABijection := by
  unfold Obligations.ToSecsIsABijection
  intro yearMax h
  exact ⟨rfl, fun t ht => ⟨toSecs_le_nMax ht, fromSecs_toSecs ht⟩,
    fun n hn => ⟨validTime_fromSecs h hn, toSecs_fromSecs n⟩⟩

end Sys2Proof.Proofs

/-! ADVANCE and RETREAT (41_alarm_adjuster.md R106 to R111). Each is one move on the valid times, ADVANCE's from all but the
last to one second later on the axis, RETREAT's from all but the first to one second earlier. The statements about the axis
and about inverses follow, because a valid time is known by its second. -/

namespace Sys2Proof.Proofs

open Sys2Proof.Machine Sys2Proof.Safety

/-! ## The carry chain and the borrow chain on the axis -/

theorem validTime_mk {yearMax y mo d h mi s : Nat} (hyear : yearMin ≤ y ∧ y ≤ yearMax) (hmonth : 1 ≤ mo ∧ mo ≤ 12)
    (hday : 1 ≤ d ∧ d ≤ daysInMonth y mo) (hclock : h ≤ 23 ∧ mi ≤ 59 ∧ s ≤ 59) :
    validTime yearMax ⟨y, mo, d, h, mi, s⟩ = true := (validTime_iff _ _).mpr ⟨hyear, hmonth, hday, hclock⟩

section Chains
variable {yearMax : Nat} {t : CalTime} (ht : validTime yearMax t = true)

section Days
variable {h mi s : Nat} (hclock : h ≤ 23 ∧ mi ≤ 59 ∧ s ≤ 59)
include ht hclock

/-- Another time of the same day. -/
theorem sameDay_spec :
    validTime yearMax ⟨t.year, t.month, t.day, h, mi, s⟩ = true ∧
      toSecs ⟨t.year, t.month, t.day, h, mi, s⟩ = 86400 * daysOf t + 3600 * h + 60 * mi + s := by
  obtain ⟨hyear, hmonth, hday, -⟩ := (validTime_iff _ _).mp ht
  exact ⟨validTime_mk hyear hmonth hday hclock, rfl⟩

/-- Unless the day is the calendar's last, the day after is a day of the calendar, the next one on the axis. -/
theorem nextDay_spec (hedge : ¬ (t.year = yearMax ∧ t.month = 12 ∧ t.day = 31)) :
    validTime yearMax (nextDay t.year t.month t.day h mi s) = true ∧
      toSecs (nextDay t.year t.month t.day h mi s) = 86400 * (daysOf t + 1) + 3600 * h + 60 * mi + s := by
  obtain ⟨hyear, hmonth, hday, -⟩ := (validTime_iff _ _).mp ht
  have hmonths := daysOfMonths_next hmonth.1 t.year
  rw [nextDay]
  split
  case isTrue hin =>
    refine ⟨validTime_mk hyear hmonth ⟨by omega, hin⟩ hclock, ?_⟩
    simp only [toSecs, daysOf]
    omega
  case isFalse hend =>
    split
    case isTrue hin =>
      refine ⟨validTime_mk hyear ⟨by omega, hin⟩ ⟨le_rfl, daysInMonth_pos (by omega) hin _⟩ hclock, ?_⟩
      simp only [toSecs, daysOf, Nat.add_sub_cancel]
      omega
    case isFalse hdecember =>
      have h12 : t.month = 12 := by omega
      have h31 : t.day = 31 := by
        have hlen : daysInMonth t.year 12 = 31 := rfl
        rw [h12] at hday hend
        omega
      have hyears := daysOfYears_next hyear.1
      rw [← daysOfMonths_twelve, ← h12] at hyears
      have hpos : 1 ≤ daysInMonth (t.year + 1) 1 := daysInMonth_pos le_rfl (by decide) _
      refine ⟨validTime_mk ⟨by omega, by omega⟩ ⟨le_rfl, by decide⟩ ⟨le_rfl, hpos⟩ hclock, ?_⟩
      simp only [toSecs, daysOf, daysOfMonths, Nat.sub_self]
      omega

/-- Unless the day is the calendar's first, the day before is a day of the calendar, the one before on the axis. -/
theorem prevDay_spec (hedge : ¬ (t.year = yearMin ∧ t.month = 1 ∧ t.day = 1)) :
    validTime yearMax (prevDay t.year t.month t.day h mi s) = true ∧
      toSecs (prevDay t.year t.month t.day h mi s) + 86400 = 86400 * daysOf t + 3600 * h + 60 * mi + s := by
  obtain ⟨hyear, hmonth, hday, -⟩ := (validTime_iff _ _).mp ht
  rw [prevDay]
  split
  case isTrue hin =>
    refine ⟨validTime_mk hyear hmonth ⟨by omega, by omega⟩ hclock, ?_⟩
    simp only [toSecs, daysOf]
    omega
  case isFalse hfirst =>
    split
    case isTrue hin =>
      have hpos : 1 ≤ daysInMonth t.year (t.month - 1) := daysInMonth_pos (by omega) (by omega) _
      have hmonths := daysOfMonths_next (m := t.month - 1) (by omega) t.year
      refine ⟨validTime_mk hyear ⟨by omega, by omega⟩ ⟨hpos, le_rfl⟩ hclock, ?_⟩
      simp only [toSecs, daysOf]
      omega
    case isFalse hjanuary =>
      have h1 : t.month = 1 := by omega
      have hyears := daysOfYears_next (y := t.year - 1) (by omega)
      rw [← daysOfMonths_twelve, daysOfMonths_next (by decide), Nat.sub_add_cancel (by omega)] at hyears
      have hpos : 1 ≤ daysInMonth (t.year - 1) 12 := daysInMonth_pos (by decide) le_rfl _
      have hmonths : daysOfMonths t.year 0 = 0 := rfl
      refine ⟨validTime_mk ⟨by omega, by omega⟩ ⟨by decide, le_rfl⟩ ⟨hpos, le_rfl⟩ hclock, ?_⟩
      simp only [toSecs, daysOf, h1, hmonths, Nat.sub_self]
      omega

end Days

include ht

/-- ADVANCE's move: one second later on the axis (R106, R108). -/
theorem carrySecond_spec (hedge : t ≠ lastTime yearMax) :
    validTime yearMax (carrySecond t) = true ∧ toSecs (carrySecond t) = toSecs t + 1 := by
  obtain ⟨-, -, -, hclock⟩ := (validTime_iff _ _).mp ht
  rw [carrySecond]
  split
  case isTrue =>
    obtain ⟨hvalid, hsecs⟩ := sameDay_spec ht (h := t.hour) (mi := t.minute) (s := t.second + 1) (by omega)
    exact ⟨hvalid, by rw [hsecs, toSecs]; omega⟩
  case isFalse hsecond =>
    split
    case isTrue =>
      obtain ⟨hvalid, hsecs⟩ := sameDay_spec ht (h := t.hour) (mi := t.minute + 1) (s := 0) (by omega)
      exact ⟨hvalid, by rw [hsecs, toSecs]; omega⟩
    case isFalse hminute =>
      split
      case isTrue =>
        obtain ⟨hvalid, hsecs⟩ := sameDay_spec ht (h := t.hour + 1) (mi := 0) (s := 0) (by omega)
        exact ⟨hvalid, by rw [hsecs, toSecs]; omega⟩
      case isFalse hhour =>
        have hnotLast : ¬ (t.year = yearMax ∧ t.month = 12 ∧ t.day = 31) := by
          rintro ⟨hy, hmo, hd⟩
          refine hedge ?_
          cases t
          simp only [lastTime, CalTime.mk.injEq] at *
          omega
        obtain ⟨hvalid, hsecs⟩ := nextDay_spec ht (h := 0) (mi := 0) (s := 0) (by omega) hnotLast
        exact ⟨hvalid, by rw [hsecs, toSecs]; omega⟩

/-- RETREAT's move: one second earlier on the axis (R107, R109). -/
theorem borrowSecond_spec (hedge : t ≠ firstTime) :
    validTime yearMax (borrowSecond t) = true ∧ toSecs (borrowSecond t) + 1 = toSecs t := by
  obtain ⟨-, -, -, hclock⟩ := (validTime_iff _ _).mp ht
  rw [borrowSecond]
  split
  case isTrue =>
    obtain ⟨hvalid, hsecs⟩ := sameDay_spec ht (h := t.hour) (mi := t.minute) (s := t.second - 1) (by omega)
    exact ⟨hvalid, by rw [hsecs, toSecs]; omega⟩
  case isFalse hsecond =>
    split
    case isTrue =>
      obtain ⟨hvalid, hsecs⟩ := sameDay_spec ht (h := t.hour) (mi := t.minute - 1) (s := 59) (by omega)
      exact ⟨hvalid, by rw [hsecs, toSecs]; omega⟩
    case isFalse hminute =>
      split
      case isTrue =>
        obtain ⟨hvalid, hsecs⟩ := sameDay_spec ht (h := t.hour - 1) (mi := 59) (s := 59) (by omega)
        exact ⟨hvalid, by rw [hsecs, toSecs]; omega⟩
      case isFalse hhour =>
        have hnotFirst : ¬ (t.year = yearMin ∧ t.month = 1 ∧ t.day = 1) := by
          rintro ⟨hy, hmo, hd⟩
          refine hedge ?_
          cases t
          simp only [firstTime, CalTime.mk.injEq] at *
          omega
        obtain ⟨hvalid, hsecs⟩ := prevDay_spec ht (h := 23) (mi := 59) (s := 59) (by omega) hnotFirst
        refine ⟨hvalid, ?_⟩
        simp only [toSecs] at hsecs ⊢
        omega

theorem carrySecond_eq_fromSecs (hedge : t ≠ lastTime yearMax) : carrySecond t = fromSecs (toSecs t + 1) := by
  obtain ⟨hvalid, hsecs⟩ := carrySecond_spec ht hedge
  rw [← hsecs, fromSecs_toSecs hvalid]

theorem borrowSecond_eq_fromSecs (hedge : t ≠ firstTime) : borrowSecond t = fromSecs (toSecs t - 1) := by
  obtain ⟨hvalid, hsecs⟩ := borrowSecond_spec ht hedge
  rw [← hsecs, Nat.add_sub_cancel, fromSecs_toSecs hvalid]

/-- The one valid time without a second after it on the axis (R106). -/
theorem eq_lastTime_iff : t = lastTime yearMax ↔ toSecs t + 1 > nMax yearMax := by
  obtain ⟨⟨hyear, hyearMax⟩, -⟩ := (validTime_iff _ _).mp ht
  constructor
  · rintro rfl
    exact Nat.lt_succ_self _
  · intro hend
    exact eq_of_toSecs_eq ht (validTime_lastTime (hyear.trans hyearMax))
      (le_antisymm (toSecs_le_nMax ht) (Nat.lt_succ_iff.mp hend))

/-- The one valid time without a second before it on the axis (R107). -/
theorem eq_firstTime_iff : t = firstTime ↔ toSecs t = 0 := by
  obtain ⟨⟨hyear, hyearMax⟩, -⟩ := (validTime_iff _ _).mp ht
  constructor
  · rintro rfl
    exact toSecs_firstTime
  · intro hstart
    exact eq_of_toSecs_eq ht (validTime_firstTime (hyear.trans hyearMax)) (hstart.trans toSecs_firstTime.symm)

/-- On a valid time the rule's chain carries where the model's does: each field overflows by one at the most. -/
theorem carryChain_eq_carrySecond : carryChain t = carrySecond t := by
  obtain ⟨-, ⟨-, hmonth⟩, ⟨-, hday⟩, hclock⟩ := (validTime_iff _ _).mp ht
  have hmi : ¬ t.minute = 60 := by omega
  have hh : ¬ t.hour = 24 := by omega
  have hd : ¬ t.day > daysInMonth t.year t.month := by omega
  have hmo : ¬ t.month = 13 := by omega
  rw [carrySecond]
  split
  case isTrue =>
    have hs : ¬ t.second + 1 = 60 := by omega
    simp only [carryChain, hs, hmi, hh, hd, hmo, if_false]
  case isFalse =>
    have hs : t.second + 1 = 60 := by omega
    split
    case isTrue =>
      have hmi : ¬ t.minute + 1 = 60 := by omega
      simp only [carryChain, hs, hmi, hh, hd, hmo, if_true, if_false]
    case isFalse =>
      have hmi : t.minute + 1 = 60 := by omega
      split
      case isTrue =>
        have hh : ¬ t.hour + 1 = 24 := by omega
        simp only [carryChain, hs, hmi, hh, hd, hmo, if_true, if_false]
      case isFalse =>
        have hh : t.hour + 1 = 24 := by omega
        rw [nextDay]
        split
        case isTrue =>
          have hd : ¬ t.day + 1 > daysInMonth t.year t.month := by omega
          simp only [carryChain, hs, hmi, hh, hd, hmo, if_true, if_false]
        case isFalse =>
          have hd : t.day + 1 > daysInMonth t.year t.month := by omega
          split
          case isTrue =>
            have hmo : ¬ t.month + 1 = 13 := by omega
            simp only [carryChain, hs, hmi, hh, hd, hmo, if_true, if_false]
          case isFalse =>
            have hmo : t.month + 1 = 13 := by omega
            simp only [carryChain, hs, hmi, hh, hd, hmo, if_true]

end Chains

theorem borrowChain_eq_borrowSecond (t : CalTime) : borrowChain t = borrowSecond t := by
  simp only [borrowChain, borrowSecond, prevDay, gt_iff_lt]
  split_ifs <;> rfl

/-- `g` takes back every move that `f` makes on a valid time: what R110 says of ADVANCE and RETREAT. -/
def Undoes (yearMax : Nat) (edge : CalTime) (f : CalTime → CalTime) (edge' : CalTime) (g : CalTime → CalTime) : Prop :=
  ∀ t, validTime yearMax t = true → t ≠ edge → validTime yearMax (f t) = true ∧ f t ≠ edge' ∧ g (f t) = t

theorem borrowSecond_undoes_carrySecond (yearMax : Nat) :
    Undoes yearMax (lastTime yearMax) carrySecond firstTime borrowSecond := by
  intro t ht hedge
  obtain ⟨hvalid, hsecs⟩ := carrySecond_spec ht hedge
  have hnotFirst : carrySecond t ≠ firstTime := by
    rw [Ne, eq_firstTime_iff hvalid]
    omega
  obtain ⟨hback, hbackSecs⟩ := borrowSecond_spec hvalid hnotFirst
  exact ⟨hvalid, hnotFirst, eq_of_toSecs_eq hback ht (by omega)⟩

theorem carrySecond_undoes_borrowSecond (yearMax : Nat) :
    Undoes yearMax firstTime borrowSecond (lastTime yearMax) carrySecond := by
  intro t ht hedge
  obtain ⟨hvalid, hsecs⟩ := borrowSecond_spec ht hedge
  have hle := toSecs_le_nMax ht
  have hnotLast : borrowSecond t ≠ lastTime yearMax := by
    rw [Ne, eq_lastTime_iff hvalid]
    omega
  obtain ⟨hback, hbackSecs⟩ := carrySecond_spec hvalid hnotLast
  exact ⟨hvalid, hnotLast, eq_of_toSecs_eq hback ht (by omega)⟩

/-! ## The two commands -/

/-- A valid time fits the T bus under parameters that R6 allows. -/
theorem calOfBus_busOfCal_of_validTime {c : Config} {t : CalTime} (hcfg : c.wellFormed = true)
    (ht : validTime c.yearMax t = true) : calOfBus (busOfCal t) = t := by
  obtain ⟨-, -, -, -, -, -, hyearMax⟩ := (wellFormed_iff c).mp hcfg
  obtain ⟨⟨-, hyear⟩, ⟨hmonth1, hmonth⟩, ⟨-, hday⟩, hclock⟩ := (validTime_iff _ _).mp ht
  have hmask := (fieldMask c 1).isLt
  have hday31 := daysInMonth_le hmonth1 hmonth t.year
  apply calOfBus_busOfCal <;> omega

theorem exec_advance_live {s : State} (hlive : s.fault = none) :
    exec .advance s = adjust (lastTime s.cfg.yearMax) carrySecond s := whenLive_live hlive _

theorem exec_retreat_live {s : State} (hlive : s.fault = none) :
    exec .retreat s = adjust firstTime borrowSecond s := whenLive_live hlive _

section Adjust
variable {s : State} {edge : CalTime} {f : CalTime → CalTime}

theorem adjust_of_not_validIn (hinvalid : ¬ ValidIn s) : adjust edge f s = raiseOnCommand .adjDomain s :=
  if_neg hinvalid

theorem adjust_of_eq_edge (hvalid : ValidIn s) (hedge : calOfBus s.bus.tIn = edge) :
    adjust edge f s = raiseOnCommand .adjRange s := (if_pos hvalid).trans (if_pos hedge)

theorem adjust_of_ne_edge (hvalid : ValidIn s) (hedge : calOfBus s.bus.tIn ≠ edge) :
    adjust edge f s = .next (s.respond (Response.time (busOfCal (f (calOfBus s.bus.tIn))))) :=
  (if_pos hvalid).trans (if_neg hedge)

/-- OK with a time means the third way of `adjust_next`. -/
theorem adjust_ok {s' : State} {o : TBus} (h : adjust edge f s = .next s')
    (hresp : s'.resp = some ⟨.ok, some o, none, none⟩) :
    ValidIn s ∧ calOfBus s.bus.tIn ≠ edge ∧ o = busOfCal (f (calOfBus s.bus.tIn)) ∧
      s' = s.respond (Response.time o) := by
  rcases adjust_next h with ⟨-, rfl⟩ | ⟨-, -, rfl⟩ | ⟨hvalid, hedge, rfl⟩
  · cases hresp
  · cases hresp
  · cases hresp
    exact ⟨hvalid, hedge, rfl, rfl⟩

end Adjust

section Undo
variable {s : State} {t o : TBus} (hcfg : s.cfg.wellFormed = true) (ht : validTime s.cfg.yearMax (calOfBus t) = true)
include hcfg ht

/-- R110 on the bus: the answer `o` to `t` is a valid time, and to `o` the other command answers `t`. -/
theorem adjust_of_undoes {edge edge' : CalTime} {f g : CalTime → CalTime} (hundoes : Undoes s.cfg.yearMax edge f edge' g)
    (hedge : calOfBus t ≠ edge) (ho : o = busOfCal (f (calOfBus t))) :
    validTime s.cfg.yearMax (calOfBus o) = true ∧
      adjust edge' g { s with bus := ⟨o, 0, 0⟩ } =
        .next (State.respond { s with bus := ⟨o, 0, 0⟩ } (Response.time t)) := by
  obtain ⟨hvalid, hedge', hback⟩ := hundoes _ ht hedge
  have hcal : calOfBus o = f (calOfBus t) := by rw [ho, calOfBus_busOfCal_of_validTime hcfg hvalid]
  rw [← hcal] at hvalid hedge' hback
  refine ⟨hvalid, (adjust_of_ne_edge (s := { s with bus := ⟨o, 0, 0⟩ }) hvalid hedge').trans ?_⟩
  rw [hback, busOfCal_calOfBus]

variable (hlive : s.fault = none)
include hlive

/-- RETREAT of ADVANCE's answer. -/
theorem issue_retreat_of_carrySecond (hedge : calOfBus t ≠ lastTime s.cfg.yearMax)
    (ho : o = busOfCal (carrySecond (calOfBus t))) :
    issue .retreat ⟨o, 0, 0⟩ s = .next (State.respond { s with bus := ⟨o, 0, 0⟩ } (Response.time t)) :=
  (whenLive_live hlive _).trans (adjust_of_undoes hcfg ht (borrowSecond_undoes_carrySecond _) hedge ho).2

/-- ADVANCE of RETREAT's answer. -/
theorem issue_advance_of_borrowSecond (hedge : calOfBus t ≠ firstTime) (ho : o = busOfCal (borrowSecond (calOfBus t))) :
    issue .advance ⟨o, 0, 0⟩ s = .next (State.respond { s with bus := ⟨o, 0, 0⟩ } (Response.time t)) :=
  (whenLive_live hlive _).trans (adjust_of_undoes hcfg ht (carrySecond_undoes_borrowSecond _) hedge ho).2

end Undo

/-- Settles O27: among the valid times the last alone has no second after it; the carry chain moves the others by one. -/
theorem advanceFollowsTheTimeAxis : Obligations.AdvanceFollowsTheTimeAxis := by
  unfold Obligations.AdvanceFollowsTheTimeAxis
  refine ⟨decode_encode .advance, fun s hlive _ => ?_⟩
  rw [exec_advance_live hlive]
  by_cases hvalid : ValidIn s
  · rw [if_neg (not_not.mpr hvalid)]
    by_cases hedge : calOfBus s.bus.tIn = lastTime s.cfg.yearMax
    · rw [if_pos ((eq_lastTime_iff hvalid).mp hedge)]
      exact adjust_of_eq_edge hvalid hedge
    · rw [if_neg (mt (eq_lastTime_iff hvalid).mpr hedge), ← carrySecond_eq_fromSecs hvalid hedge]
      exact adjust_of_ne_edge hvalid hedge
  · rw [if_pos hvalid]
    exact adjust_of_not_validIn hvalid

/-- Settles O28: among the valid times the first alone has no second before it; the borrow chain moves the others by one. -/
theorem retreatFollowsTheTimeAxis : Obligations.RetreatFollowsTheTimeAxis := by
  unfold Obligations.RetreatFollowsTheTimeAxis
  refine ⟨decode_encode .retreat, fun s hlive _ => ?_⟩
  rw [exec_retreat_live hlive]
  by_cases hvalid : ValidIn s
  · have hrange : calOfBus s.bus.tIn = firstTime ↔ (toSecs (calOfBus s.bus.tIn) : Int) - 1 < 0 := by
      rw [eq_firstTime_iff hvalid]
      omega
    rw [if_neg (not_not.mpr hvalid)]
    by_cases hedge : calOfBus s.bus.tIn = firstTime
    · rw [if_pos (hrange.mp hedge)]
      exact adjust_of_eq_edge hvalid hedge
    · rw [if_neg (mt hrange.mpr hedge), ← borrowSecond_eq_fromSecs hvalid hedge]
      exact adjust_of_ne_edge hvalid hedge
  · rw [if_pos hvalid]
    exact adjust_of_not_validIn hvalid

/-- Settles O29: the answer fits the bus, and the model's chain is the rule's. -/
theorem advanceCompletesByCarryChain : Obligations.AdvanceCompletesByCarryChain := by
  unfold Obligations.AdvanceCompletesByCarryChain
  intro s hlive hcfg hvalid hedge
  obtain ⟨hresult, -⟩ := carrySecond_spec hvalid hedge
  refine ⟨_, (exec_advance_live hlive).trans (adjust_of_ne_edge hvalid hedge), ?_⟩
  rw [calOfBus_busOfCal_of_validTime hcfg hresult, carryChain_eq_carrySecond hvalid]

/-- Settles O30: the answer fits the bus, and the model's chain is the rule's. -/
theorem retreatCompletesByBorrowChain : Obligations.RetreatCompletesByBorrowChain := by
  unfold Obligations.RetreatCompletesByBorrowChain
  intro s hlive hcfg hvalid hedge
  obtain ⟨hresult, -⟩ := borrowSecond_spec hvalid hedge
  refine ⟨_, (exec_retreat_live hlive).trans (adjust_of_ne_edge hvalid hedge), ?_⟩
  rw [calOfBus_busOfCal_of_validTime hcfg hresult, borrowChain_eq_borrowSecond]

/-- Settles O31: each chain undoes the other. -/
theorem advanceAndRetreatAreInverse : Obligations.AdvanceAndRetreatAreInverse := by
  unfold Obligations.AdvanceAndRetreatAreInverse
  intro s s1 t o hcfg
  constructor
  · intro hissue hresp
    obtain ⟨hlive, hadjust⟩ := whenLive_next hissue
    obtain ⟨hvalid, hedge, ho, rfl⟩ := adjust_ok hadjust hresp
    exact ⟨(adjust_of_undoes hcfg hvalid (borrowSecond_undoes_carrySecond _) hedge ho).1, _,
      issue_retreat_of_carrySecond hcfg hvalid hlive hedge ho, rfl⟩
  · intro hissue hresp
    obtain ⟨hlive, hadjust⟩ := whenLive_next hissue
    obtain ⟨hvalid, hedge, ho, rfl⟩ := adjust_ok hadjust hresp
    exact ⟨(adjust_of_undoes hcfg hvalid (carrySecond_undoes_borrowSecond _) hedge ho).1, _,
      issue_advance_of_borrowSecond hcfg hvalid hlive hedge ho, rfl⟩

/-! ## The alarm's round trip -/

theorem le_of_covers {m low : Byte} (h : m.covers low = true) : low.toNat ≤ m.toNat := by
  have hand := congrArg BitVec.toNat ((covers_iff m low).mp h)
  rw [BitVec.toNat_and] at hand
  exact hand ▸ Nat.and_le_left

/-- The masks that R6 allows hold every field of a valid time (R6, R88). -/
theorem fitsMasks_of_validTime {c : Config} {t : TBus} (hcfg : c.wellFormed = true)
    (ht : validTime c.yearMax (calOfBus t) = true) : FitsMasks c t := by
  obtain ⟨hmask, hmo, hd, hh, hmi, hs, hyearMax⟩ := (wellFormed_iff c).mp hcfg
  obtain ⟨⟨-, hyear⟩, ⟨hmonth1, hmonth⟩, ⟨-, hday⟩, hhour, hminute, hsecond⟩ := (validTime_iff _ _).mp ht
  have hday31 := hday.trans (daysInMonth_le hmonth1 hmonth _)
  exact ⟨hyear.trans hyearMax,
    and_fieldMask_eq_self (hmask 2) (hmonth.trans ((by decide : 12 ≤ 15).trans (le_of_covers hmo))),
    and_fieldMask_eq_self (hmask 3) (hday31.trans (le_of_covers hd)),
    and_fieldMask_eq_self (hmask 4) (hhour.trans ((by decide : 23 ≤ 31).trans (le_of_covers hh))),
    and_fieldMask_eq_self (hmask 5) (hminute.trans ((by decide : 59 ≤ 63).trans (le_of_covers hmi))),
    and_fieldMask_eq_self (hmask 6) (hsecond.trans ((by decide : 59 ≤ 63).trans (le_of_covers hs)))⟩

/-- A command that answers a time hands it to the host's next command (R71). -/
theorem andThen_time {r : Host.Outcome State Fault Refusal} {s : State} {v : TBus} (h : r = .next s)
    (hresp : s.resp = some (Response.time v)) (next : State → TBus → Host.Outcome State Fault Refusal) :
    (andThen r fun s' => withPrevTime s' (next s')) = next s v := by
  simp [h, andThen, withPrevTime, hresp, Response.time]

/-- ALARM_WRITE encodes RETREAT's answer into the block (R71). -/
theorem alarmWrite_of_retreat {s : State} {t o : TBus} (hlive : s.fault = none)
    (hretreat : issue .retreat ⟨t, 0, 0⟩ s = .next (State.respond { s with bus := ⟨t, 0, 0⟩ } (Response.time o)))
    (e : BBus) :
    alarmWrite t e s = .next (State.respond { s with bus := ⟨o, e, 0⟩ } (Response.block (encodeBlock s.cfg o e))) :=
  (andThen_time hretreat rfl _).trans (exec_encode_live hlive)

/-- ALARM_READ issues ADVANCE of the time in the block (R71). -/
theorem alarmRead_of_decodeBlock {s : State} {b : BBus} {o : TBus} (hlive : s.fault = none) (ho : decodeBlock s.cfg b = o) :
    alarmRead b s =
      issue .advance ⟨o, 0, 0⟩ (State.respond { s with bus := ⟨0, b, 0⟩ } (Response.time o)) := by
  have hdecode : issue .decode ⟨0, b, 0⟩ s = .next (State.respond { s with bus := ⟨0, b, 0⟩ } (Response.time o)) :=
    ho ▸ exec_decode_live (s := { s with bus := ⟨0, b, 0⟩ }) hlive
  exact andThen_time hdecode rfl _

/-- Settles O32: the block holds RETREAT's answer, DECODE gives it back, and ADVANCE undoes RETREAT. -/
theorem alarmRoundTripReturnsTime : Obligations.AlarmRoundTripReturnsTime := by
  unfold Obligations.AlarmRoundTripReturnsTime
  intro s t e hlive hcfg ht hedge
  obtain ⟨o, ho⟩ : ∃ o, o = busOfCal (borrowSecond (calOfBus t)) := ⟨_, rfl⟩
  have hretreat : issue .retreat ⟨t, 0, 0⟩ s = .next (State.respond { s with bus := ⟨t, 0, 0⟩ } (Response.time o)) :=
    (whenLive_live hlive _).trans (ho ▸ adjust_of_ne_edge (s := { s with bus := ⟨t, 0, 0⟩ }) ht hedge)
  obtain ⟨hresult, -⟩ := adjust_of_undoes hcfg ht (carrySecond_undoes_borrowSecond _) hedge ho
  have hstored : decodeBlock s.cfg (encodeBlock s.cfg o e) = o :=
    decodeBlock_encodeBlock hcfg (fitsMasks_of_validTime hcfg hresult) e
  exact ⟨_, encodeBlock s.cfg o e, _, alarmWrite_of_retreat hlive hretreat e, rfl,
    (alarmRead_of_decodeBlock hlive hstored).trans (issue_advance_of_borrowSecond hcfg ht hlive hedge ho), rfl⟩

end Sys2Proof.Proofs

/-! The dispatcher's deliveries and commands (42_dispatcher.md): how each of the four ends of a delivery comes about and what a
delivery reads, what an overflow does to a run, and the count of R133. -/

namespace Sys2Proof.Proofs

open Sys2Proof.Machine Sys2Proof.Safety

/-! ## The ends of a delivery -/

/-- The model's test for a merge is R126's condition. -/
theorem mergeTest_iff (s : State) (ev : EventWord) :
    (s.cfg.evCoalesce && s.evq.contains ev) = true ↔ s.cfg.evCoalesce = true ∧ ev ∈ s.evq := by
  simp

section Enqueue

variable {s : State} {ev : EventWord}

theorem enqueue_merge (hmerge : s.cfg.evCoalesce = true ∧ ev ∈ s.evq) : enqueue ev s = .next s.silent :=
  if_pos ((mergeTest_iff s ev).mpr hmerge)

theorem enqueue_overflow (hnew : ¬ (s.cfg.evCoalesce = true ∧ ev ∈ s.evq)) (hfull : s.cfg.evqDepth = some s.evq.length) :
    enqueue ev s = .next (s.setFault .evqOverflow).silent :=
  (if_neg (mt (mergeTest_iff s ev).mp hnew)).trans (if_pos ((evqFull_iff s).mpr hfull))

theorem enqueue_append (hnew : ¬ (s.cfg.evCoalesce = true ∧ ev ∈ s.evq)) (hroom : s.cfg.evqDepth ≠ some s.evq.length) :
    enqueue ev s = .next (s.setEvq (s.evq ++ [ev])).silent :=
  (if_neg (mt (mergeTest_iff s ev).mp hnew)).trans (if_neg (mt (evqFull_iff s).mp hroom))

end Enqueue

theorem exec_deliveryOf_inactive {s : State} {l : Line} (hlive : s.fault = none) (hinactive : s.lineActive l = false) :
    exec (deliveryOf l) s = .next s.silent := by
  rw [exec_deliveryOf, whenLive_live hlive, deliver, if_neg (Bool.eq_false_iff.mp hinactive)]

theorem exec_deliveryOf_active {s : State} {l : Line} (hlive : s.fault = none) (hactive : s.lineActive l = true) :
    exec (deliveryOf l) s = enqueue (lineEvent l) s := by
  rw [exec_deliveryOf, whenLive_live hlive, deliver, if_pos hactive]

/-- Settles O36: an inactive line's delivery ends before the queue. -/
theorem inactiveDeliveryLeavesNoTrace : Obligations.InactiveDeliveryLeavesNoTrace := by
  unfold Obligations.InactiveDeliveryLeavesNoTrace
  intro s l hlive hinactive
  exact exec_deliveryOf_inactive hlive hinactive

/-- Settles O34: the enqueue of an active line's delivery merges. -/
theorem coalescedDeliveryMerges : Obligations.CoalescedDeliveryMerges := by
  unfold Obligations.CoalescedDeliveryMerges
  intro s l hlive hactive hcoalesce hmem
  exact (exec_deliveryOf_active hlive hactive).trans (enqueue_merge ⟨hcoalesce, hmem⟩)

/-- Settles O35: the enqueue of an active line's delivery overflows. -/
theorem deliveryToFullQueueFaults : Obligations.DeliveryToFullQueueFaults := by
  unfold Obligations.DeliveryToFullQueueFaults
  intro s l hlive hactive hnew hfull
  exact (exec_deliveryOf_active hlive hactive).trans (enqueue_overflow hnew hfull)

/-- The rows of the table of lines (R120, R122) are the model's three lines. -/
theorem line_of_row {i : Instr} {k : Nat} {w : EventWord}
    (h : (i, k, w) ∈ ([(.irqAlarm, 0, 0x8001), (.irqTick, 1, 0x8002), (.irqPeriodic, 2, 0x8003)] :
      List (Instr × Nat × EventWord))) :
    ∃ l, i = deliveryOf l ∧ k = lineIndex l ∧ w = lineEvent l := by
  simp only [List.mem_cons, List.not_mem_nil, or_false, Prod.mk.injEq] at h
  obtain ⟨rfl, rfl, rfl⟩ | ⟨rfl, rfl, rfl⟩ | ⟨rfl, rfl, rfl⟩ := h
  · exact ⟨.alarm, rfl, rfl, rfl⟩
  · exact ⟨.tickSecond, rfl, rfl, rfl⟩
  · exact ⟨.tickPeriodic, rfl, rfl, rfl⟩

/-- Settles O33: the enqueue of an active line's delivery appends. -/
theorem activeDeliveryAppendsItsEvent : Obligations.ActiveDeliveryAppendsItsEvent := by
  unfold Obligations.ActiveDeliveryAppendsItsEvent
  intro s i k w hlive hrow hactive hnew hroom
  obtain ⟨l, rfl, rfl, rfl⟩ := line_of_row hrow
  exact (exec_deliveryOf_active hlive hactive).trans (enqueue_append hnew hroom)

/-! ## What a delivery reads and writes -/

/-- A delivery that is taken starts in a live block; an inactive line's does nothing, and an active line's enqueues. -/
theorem exec_deliveryOf_next {s s' : State} {l : Line} (h : exec (deliveryOf l) s = .next s') :
    s.fault = none ∧ ((s.lineActive l = false ∧ s' = s.silent) ∨
      (s.lineActive l = true ∧ enqueue (lineEvent l) s = .next s')) := by
  rw [exec_deliveryOf] at h
  obtain ⟨hlive, hdeliver⟩ := whenLive_next h
  exact ⟨hlive, deliver_next hdeliver⟩

/-- An enqueue reads EVQ and the parameters, and neither reads nor writes ACTIVE and PTICKS. -/
theorem enqueue_congr_active_pticks {ev : EventWord} {s s' : State} (h : enqueue ev s = .next s') (v : BitVec 3)
    (n : Option (BitVec 16)) :
    enqueue ev { s with active := v, pticks := n } = .next { s' with active := v, pticks := n } := by
  obtain ⟨hcoalesce, hmem, rfl⟩ | ⟨hnew, hfull, rfl⟩ | ⟨hnew, hroom, rfl⟩ := enqueue_next h
  · exact enqueue_merge ⟨hcoalesce, hmem⟩
  · exact enqueue_overflow hnew hfull
  · exact enqueue_append hnew hroom

/-- A delivery reads its own line's bit of ACTIVE and no other, and does not read PTICKS; it writes neither. -/
theorem exec_deliveryOf_congr_active_pticks {s s' : State} {l : Line} (h : exec (deliveryOf l) s = .next s') {v : BitVec 3}
    (hown : v.getLsbD (lineIndex l) = s.active.getLsbD (lineIndex l)) (n : Option (BitVec 16)) :
    exec (deliveryOf l) { s with active := v, pticks := n } = .next { s' with active := v, pticks := n } := by
  obtain ⟨hlive, ⟨hinactive, rfl⟩ | ⟨hactive, henqueue⟩⟩ := exec_deliveryOf_next h
  · exact exec_deliveryOf_inactive hlive (hown.trans hinactive)
  · rw [exec_deliveryOf_active (s := { s with active := v, pticks := n }) hlive (hown.trans hactive)]
    exact enqueue_congr_active_pticks henqueue v n

/-- FAULT is entered by an overflow only, which leaves EVQ, and EVQ takes the line's event at most (R126, R163). -/
theorem exec_deliveryOf_fault_evq {s s' : State} {l : Line} (h : exec (deliveryOf l) s = .next s') :
    (s'.fault = none ∨ (s'.fault = some .evqOverflow ∧ s'.evq = s.evq)) ∧
      (s'.evq = s.evq ∨ s'.evq = s.evq ++ [lineEvent l]) := by
  obtain ⟨hlive, ⟨-, rfl⟩ | ⟨-, henqueue⟩⟩ := exec_deliveryOf_next h
  · exact ⟨.inl hlive, .inl rfl⟩
  · obtain ⟨-, -, rfl⟩ | ⟨-, -, rfl⟩ | ⟨-, -, rfl⟩ := enqueue_next henqueue
    · exact ⟨.inl hlive, .inl rfl⟩
    · exact ⟨.inr ⟨rfl, rfl⟩, .inl rfl⟩
    · exact ⟨.inl hlive, .inr rfl⟩

theorem exec_deliveryOf_silent {s s' : State} {l : Line} (h : exec (deliveryOf l) s = .next s') : s'.resp = none := by
  obtain ⟨-, hnone⟩ | ⟨hcommand, -⟩ := effect_resp (exec_effect h)
  · exact hnone
  · simp at hcommand

theorem deliveryOf_ne_command {i : Instr} (hcommand : isDelivery i = false) (l : Line) : deliveryOf l ≠ i := by
  rintro rfl
  simp at hcommand

/-- Settles O37: the frame of an instruction, with what an enqueue writes and that PTICKS is not read. -/
theorem deliveryWritesOnlyQueueOrFault : Obligations.DeliveryWritesOnlyQueueOrFault := by
  unfold Obligations.DeliveryWritesOnlyQueueOrFault
  intro s s' l h
  have heff := exec_effect h
  have hactive : s'.active = s.active := effect_active heff (deliveryOf_ne_command rfl l)
  have hpticks : s'.pticks = s.pticks := effect_pticks heff (deliveryOf_ne_command rfl l)
  obtain ⟨hbus, hinputs, hdraws, hcfg⟩ := effect_ports heff
  obtain ⟨hfault, hevq⟩ := exec_deliveryOf_fault_evq h
  refine ⟨exec_deliveryOf_silent h, hactive, hpticks, hbus, hinputs, hdraws, hcfg, hfault, hevq, fun v => ?_⟩
  simpa only [hactive] using exec_deliveryOf_congr_active_pticks h rfl v

/-- Settles O38: the other lines' bits are not read. -/
theorem linesAreIndependent : Obligations.LinesAreIndependent := by
  unfold Obligations.LinesAreIndependent
  intro s l v hlive hown
  obtain ⟨s', h⟩ : ∃ s', exec (deliveryOf l) s = .next s' := by
    rw [exec_deliveryOf]
    exact whenLive_answers hlive (deliver_answers l s)
  have hpticks : s'.pticks = s.pticks := effect_pticks (exec_effect h) (deliveryOf_ne_command rfl l)
  refine ⟨s', h, ?_⟩
  simpa only [hpticks] using exec_deliveryOf_congr_active_pticks h hown s.pticks

/-! ## A run that takes an overflowing delivery -/

/-- No run from a faulted block is more than its fault (R164). -/
theorem judgedRun_faulted {s : State} {c : FaultCode} (h : s.fault = some c) (n : Nat) :
    judgedRun n s = .fault (.noStep c) := by
  cases n <;> exact whenLive_faulted h _

theorem not_runSatisfies_of_judgedRun_fault {n : Nat} {s : State} {f : Fault} (h : judgedRun n s = .fault f)
    (P : State → Prop) : ¬ RunSatisfies n s P := by
  rintro ⟨s', hnext, -⟩
  simp [h] at hnext

/-- Settles O60: the run's first step enters the fault, and from there the run is its fault. -/
theorem overflowRefutesTheRun : Obligations.OverflowRefutesTheRun := by
  unfold Obligations.OverflowRefutesTheRun
  intro n s p later l hcfg hlive hin hrst hcmd hirq hactive hnew hfull
  have hstep := (stepRunsDelivery s p later l hcfg hlive hin hrst hcmd hirq).trans
    (deliveryToFullQueueFaults { s with inputs := later } l hlive hactive hnew hfull)
  have hjudged : judgedRun (n + 1) s = .fault (.noStep .evqOverflow) :=
    (judgedRun_succ hlive hstep).trans (judgedRun_faulted rfl n)
  exact ⟨hjudged, not_runSatisfies_of_judgedRun_fault hjudged⟩

/-! ## LINECFG, LINESTAT and EVPOP -/

/-- The reserved bits `D[15:3]` are 0 exactly when the bus is below 8 (R63). -/
theorem dReserved_eq_zero_iff (d : DBus) : dReserved d = 0 ↔ d.toNat < 8 := by
  rw [← BitVec.toNat_inj, dReserved, BitVec.extractLsb'_toNat, Nat.shiftRight_eq_div_pow]
  have hd := d.isLt
  change d.toNat / 2 ^ 3 % 2 ^ 13 = 0 ↔ d.toNat < 8
  omega

theorem dLines_eq_ofNat (d : DBus) : dLines d = BitVec.ofNat 3 d.toNat := by
  apply BitVec.eq_of_toNat_eq
  simp only [dLines, BitVec.extractLsb'_toNat, Nat.shiftRight_zero, BitVec.toNat_ofNat]

theorem exec_lineCfg_reserved {s : State} (hlive : s.fault = none) (hreserved : dReserved s.bus.dIn ≠ 0) :
    exec .lineCfg s = .next (s.respond Response.unsupported) := (whenLive_live hlive _).trans (if_neg hreserved)

theorem exec_lineStat_live {s : State} (hlive : s.fault = none) :
    exec .lineStat s = .next (s.respond (Response.scalar (s.active.setWidth 16))) := whenLive_live hlive _

theorem exec_evPop_live {s : State} (hlive : s.fault = none) :
    exec .evPop s = .next ((s.setEvq (popEvent s.evq).2).respond (Response.scalar (popEvent s.evq).1)) :=
  whenLive_live hlive _

/-- Settles O40: the reserved bits decide between the two answers. -/
theorem lineCfgSetsEnables : Obligations.LineCfgSetsEnables := by
  unfold Obligations.LineCfgSetsEnables
  refine ⟨rfl, fun s hlive => ⟨fun hlt => ?_, fun hge => ?_⟩⟩
  · rw [← dLines_eq_ofNat]
    exact exec_lineCfg_done hlive ((dReserved_eq_zero_iff _).mpr hlt)
  · exact exec_lineCfg_reserved hlive (mt (dReserved_eq_zero_iff _).mp (Nat.not_lt.mpr hge))

/-- Settles O41: widening by zeros keeps the value. -/
theorem lineStatReadsEnables : Obligations.LineStatReadsEnables := by
  unfold Obligations.LineStatReadsEnables
  refine ⟨rfl, fun s hlive => ⟨s.active.setWidth 16, exec_lineStat_live hlive, ?_⟩⟩
  exact BitVec.toNat_setWidth_of_le (by decide)

/-- Settles O42: the two cases of the queue. -/
theorem evPopReturnsOldestEvent : Obligations.EvPopReturnsOldestEvent := by
  unfold Obligations.EvPopReturnsOldestEvent
  refine ⟨rfl, fun s hlive => ⟨fun hempty => ?_, fun ev rest hcons => ?_⟩⟩
  · simp only [exec_evPop_live hlive, hempty, popEvent]
    rw [← hempty]
    rfl
  · simp only [exec_evPop_live hlive, hcons, popEvent]
    rfl

end Sys2Proof.Proofs

/-! The count of R133 (42_dispatcher.md): along a run that keeps the lines' enables, a line's events that EVPOP returned and
those still queued are the deliveries its agent took and those queued before. -/

namespace Sys2Proof.Proofs

open Sys2Proof.Machine Sys2Proof.Safety

/-! ## What one turn adds to a tally -/

theorem encode_injective : Function.Injective encode := fun i j h =>
  Except.ok.inj ((decode_encode i).symm.trans ((congrArg decode h).trans (decode_encode j)))

theorem encode_deliveryOf (l : Line) : encode (deliveryOf l) = .pulses (linePattern l) := by
  cases l <;> rfl

theorem deliveryOf_inj {l m : Line} : deliveryOf l = deliveryOf m ↔ l = m := by
  cases l <;> cases m <;> decide

theorem lineEvent_inj {l m : Line} : lineEvent l = lineEvent m ↔ l = m := by
  cases l <;> cases m <;> decide

/-- The one instruction whose turn counts as a line's delivery is that line's. -/
theorem tallyTurn_delivered (l : Line) (i : Instr) (after : State) :
    (tallyTurn l (encode i) after).delivered = if i = deliveryOf l then 1 else 0 := by
  simp only [tallyTurn, ← encode_deliveryOf, encode_injective.eq_iff]

/-- The one instruction whose turn can count as a return is EVPOP. -/
theorem tallyTurn_returned (l : Line) (i : Instr) (after : State) :
    (tallyTurn l (encode i) after).returned = if i = .evPop ∧ after.dOutPort = some (lineEvent l) then 1 else 0 := by
  have hword : PortWord.command 0x32 = encode .evPop := rfl
  simp only [tallyTurn, hword, encode_injective.eq_iff]

/-- A word that is no instruction counts nothing. -/
theorem tallyTurn_of_decode_error {w : PortWord} {e : DecodeError} (h : decode w = .error e) (l : Line) (after : State) :
    tallyTurn l w after = ⟨0, 0⟩ := by
  have hpulse : w ≠ .pulses (linePattern l) := by
    rintro rfl
    simp [decode_linePattern] at h
  have hevPop : w ≠ .command 0x32 := by
    rintro rfl
    cases h
  simp only [tallyTurn, hpulse, hevPop, false_and, if_false]

/-- R133 of one stretch of a run, from `s` to `s'`, in which `t` was counted. -/
def Balanced (l : Line) (s s' : State) (t : Tally) : Prop := t.returned + queued l s' = queued l s + t.delivered

theorem balanced_of_evq_eq {l : Line} {s s' : State} (h : s'.evq = s.evq) : Balanced l s s' ⟨0, 0⟩ := by
  simp [Balanced, queued, h]

/-- An append of a line's event adds one to that line's queued events and none to another's. -/
theorem count_append_lineEvent (l m : Line) (q : List EventWord) :
    (q ++ [lineEvent m]).count (lineEvent l) = q.count (lineEvent l) + if m = l then 1 else 0 := by
  simp [List.count_append, List.count_singleton, lineEvent_inj]

theorem emptyEvent_ne_lineEvent (l : Line) : emptyEvent ≠ lineEvent l := by
  cases l <;> decide

/-- EVPOP takes away the event that it returns; EMPTY is no line's event. -/
theorem count_popEvent (l : Line) (q : List EventWord) :
    (if (popEvent q).1 = lineEvent l then 1 else 0) + q.tail.count (lineEvent l) = q.count (lineEvent l) := by
  cases q with
  | nil => simp [popEvent, emptyEvent_ne_lineEvent]
  | cons e rest => by_cases he : e = lineEvent l <;> simp [popEvent, he, Nat.add_comm]

/-- A delivery is counted and queued. -/
theorem balanced_delivery {l m : Line} {s s' : State} (hcfg : s.cfg = Config.default) (hactive : s.active = 0b111)
    (h : exec (deliveryOf m) s = .next s') : Balanced l s s' (tallyTurn l (encode (deliveryOf m)) s') := by
  have hon : s.lineActive m = true := by cases m <;> simp [State.lineActive, hactive, lineIndex]
  have happend : s' = (s.setEvq (s.evq ++ [lineEvent m])).silent := Host.Outcome.next.inj
    (h.symm.trans (exec_deliveryOf_append (exec_next_live h) hon (hcfg ▸ rfl) (hcfg ▸ rfl)))
  have hnotEvPop : deliveryOf m ≠ .evPop := deliveryOf_ne_command rfl m
  simp only [Balanced, queued, tallyTurn_delivered, tallyTurn_returned, deliveryOf_inj, hnotEvPop, happend,
    State.silent_evq, State.setEvq_evq, count_append_lineEvent, false_and, if_false, Nat.zero_add]

/-- An EVPOP's return is counted and leaves the queue. -/
theorem balanced_evPop {l : Line} {s s' : State} (h : exec .evPop s = .next s') :
    Balanced l s s' (tallyTurn l (encode .evPop) s') := by
  have hnotDelivery : Instr.evPop ≠ deliveryOf l := (deliveryOf_ne_command rfl l).symm
  have hout : s'.dOutPort = some (popEvent s.evq).1 := by rw [execEvPop_next h]; rfl
  have hevq : s'.evq = s.evq.tail := by rw [execEvPop_next h]; rfl
  simp only [Balanced, queued, tallyTurn_delivered, tallyTurn_returned, hnotDelivery, hout, hevq, Option.some.injEq,
    true_and, if_false, count_popEvent, Nat.add_zero]

theorem eq_deliveryOf_of_isDelivery {i : Instr} (h : isDelivery i = true) : ∃ l, i = deliveryOf l := by
  cases i with
  | irqAlarm => exact ⟨.alarm, rfl⟩
  | irqTick => exact ⟨.tickSecond, rfl⟩
  | irqPeriodic => exact ⟨.tickPeriodic, rfl⟩
  | _ => cases h

/-- Another command counts nothing and leaves the queue. -/
theorem balanced_otherCommand {l : Line} {i : Instr} {s s' : State} (hcommand : isDelivery i = false) (hi : i ≠ .evPop)
    (h : exec i s = .next s') : Balanced l s s' (tallyTurn l (encode i) s') := by
  have hnotDelivery : i ≠ deliveryOf l := (deliveryOf_ne_command hcommand l).symm
  simp only [Balanced, queued, tallyTurn_delivered, tallyTurn_returned, hnotDelivery, hi,
    effect_evq_of_command (exec_effect h) hi hcommand, false_and, if_false, Nat.zero_add, Nat.add_zero]

theorem balanced_exec {l : Line} {i : Instr} {s s' : State} (hcfg : s.cfg = Config.default) (hactive : s.active = 0b111)
    (h : exec i s = .next s') : Balanced l s s' (tallyTurn l (encode i) s') := by
  cases hkind : isDelivery i with
  | true =>
    obtain ⟨m, rfl⟩ := eq_deliveryOf_of_isDelivery hkind
    exact balanced_delivery hcfg hactive h
  | false =>
    by_cases hi : i = .evPop
    · subst hi
      exact balanced_evPop h
    · exact balanced_otherCommand hkind hi h

/-! ## What a step keeps of R133's premises -/

/-- R133's premises: the default parameters, every line active, and no reset and no LINECFG among what is presented. -/
structure AllLinesOn (s : State) : Prop where
  cfg : s.cfg = Config.default
  active : s.active = 0b111
  inputs : ∀ p ∈ s.inputs, keepsEnables p

/-- Taking an agent off a sample puts no reset and no command into it. -/
theorem keepsEnables_clearAgent {p : InPorts} (h : keepsEnables p) (a : Agent) : keepsEnables (clearAgent p a) := by
  obtain ⟨hrst, hcmd⟩ := h
  cases a with
  | cmd => exact ⟨hrst, fun hc => by cases hc.1⟩
  | irq l => exact ⟨hrst, hcmd⟩

theorem keepsEnables_remaining {p : InPorts} {later : List InPorts} (h : ∀ q ∈ p :: later, keepsEnables q) (a : Agent) :
    ∀ q ∈ remaining p a later, keepsEnables q := by
  obtain ⟨hp, hlater⟩ := List.forall_mem_cons.mp h
  unfold remaining
  split
  · exact hlater
  · exact List.forall_mem_cons.mpr ⟨keepsEnables_clearAgent hp a, hlater⟩

/-- The agents of such a sample do not present LINECFG. -/
theorem agentWord_ne_lineCfg {p : InPorts} {a : Agent} (h : keepsEnables p) (ha : a ∈ pendingAgents p) :
    agentWord p a ≠ encode .lineCfg := by
  intro hword
  cases a with
  | cmd => exact h.2 ⟨(cmd_mem_pendingAgents p).mp ha, PortWord.command.inj hword⟩
  | irq l => cases hword

/-- With no reset presented, a quiet step only drops a sample. -/
theorem fetch_quiet_of_allLinesOn {s s' : State} (hon : AllLinesOn s) (h : fetch s = .quiet s') :
    AllLinesOn s' ∧ s'.evq = s.evq := by
  obtain ⟨hcfg, hactive, hinputs⟩ := hon
  obtain ⟨lost, p, later, hin, hrst, -, -, -⟩ | ⟨-, ⟨-, rfl⟩ | ⟨p, later, hin, -, -, rfl⟩⟩ := fetch_quiet h
  · have hkeeps : keepsEnables p := hinputs p (by simp [hin])
    simp [hkeeps.1] at hrst
  · exact ⟨⟨hcfg, hactive, hinputs⟩, rfl⟩
  · rw [hin] at hinputs
    exact ⟨⟨hcfg, hactive, (List.forall_mem_cons.mp hinputs).2⟩, rfl⟩

/-- The turn that such a state gives starts in such a state with the same queue, and is not LINECFG's. -/
theorem fetch_turn_of_allLinesOn {s s1 : State} {w : PortWord} (hon : AllLinesOn s) (h : fetch s = .turn w s1) :
    AllLinesOn s1 ∧ s1.evq = s.evq ∧ w ≠ encode .lineCfg := by
  obtain ⟨hcfg, hactive, hinputs⟩ := hon
  obtain ⟨-, p, later, a, n, hin, -, ha, rfl, rfl⟩ := fetch_turn h
  rw [hin] at hinputs
  have hp : keepsEnables p := hinputs p List.mem_cons_self
  exact ⟨⟨hcfg, hactive, keepsEnables_remaining hinputs a⟩, rfl, agentWord_ne_lineCfg hp ha⟩

/-- No instruction but LINECFG writes what R133's premises speak of. -/
theorem exec_keeps_allLinesOn {i : Instr} {s s' : State} (hon : AllLinesOn s) (hi : i ≠ .lineCfg)
    (h : exec i s = .next s') : AllLinesOn s' := by
  obtain ⟨hcfg, hactive, hinputs⟩ := hon
  have heff := exec_effect h
  obtain ⟨-, hin, -, hcfg'⟩ := effect_ports heff
  exact ⟨hcfg'.trans hcfg, (effect_active heff hi).trans hactive, hin ▸ hinputs⟩

theorem rejectWord_keeps_allLinesOn {s : State} (hon : AllLinesOn s) (e : DecodeError) : AllLinesOn (rejectWord e s) := by
  obtain ⟨hcfg, hactive, hinputs⟩ := hon
  cases e <;> exact ⟨hcfg, hactive, hinputs⟩

theorem rejectWord_evq (e : DecodeError) (s : State) : (rejectWord e s).evq = s.evq := by
  cases e <;> rfl

/-- A step keeps R133's premises and its balance. -/
theorem step_allLinesOn {s s' : State} (hon : AllLinesOn s) (h : step s = .next s') (l : Line) :
    AllLinesOn s' ∧ Balanced l s s' (tallyStep l s s') := by
  obtain ⟨-, hquiet | ⟨w, s1, hturn, hrun⟩⟩ := step_next h
  · obtain ⟨hon', hevq⟩ := fetch_quiet_of_allLinesOn hon hquiet
    simpa only [tallyStep, hquiet] using And.intro hon' (balanced_of_evq_eq hevq)
  · obtain ⟨hon1, hevq1, hw⟩ := fetch_turn_of_allLinesOn hon hturn
    simp only [tallyStep, hturn]
    obtain ⟨i, hdecode, hexec⟩ | ⟨e, herror, rfl⟩ := hrun
    · obtain rfl : w = encode i := (decodeAndEncodeAgree w i).mp hdecode
      refine ⟨exec_keeps_allLinesOn hon1 (fun hi => hw (congrArg encode hi)) hexec, ?_⟩
      simpa only [Balanced, queued, hevq1] using balanced_exec (l := l) hon1.cfg hon1.active hexec
    · rw [tallyTurn_of_decode_error herror]
      exact ⟨rejectWord_keeps_allLinesOn hon1 e, balanced_of_evq_eq ((rejectWord_evq e s1).trans hevq1)⟩

/-! ## The tally of a run -/

/-- A run of one step more has the tally of its first step and of the rest. -/
theorem runTally_succ_eq_some {l : Line} {n : Nat} {s s' : State} {t : Tally} :
    runTally l (n + 1) s = some (s', t) ↔ ∃ s1 r, s.fault = none ∧ step s = .next s1 ∧ runTally l n s1 = some (s', r) ∧
      t = ⟨(tallyStep l s s1).delivered + r.delivered, (tallyStep l s s1).returned + r.returned⟩ := by
  rw [runTally]
  constructor
  · intro h
    split at h
    · cases h
    · rename_i s1 hnext
      obtain ⟨hlive, hstep⟩ := whenLive_next (nextOf_eq_some.mp hnext)
      obtain ⟨⟨s2, r⟩, hrest, heq⟩ := Option.map_eq_some_iff.mp h
      cases heq
      exact ⟨s1, r, hlive, hstep, hrest, rfl⟩
  · rintro ⟨s1, r, hlive, hstep, hrest, rfl⟩
    simp only [whenLive_live hlive, hstep, nextOf_next, hrest, Option.map_some]

/-- Two balanced stretches of a run are one. -/
theorem Balanced.trans {l : Line} {s s1 s' : State} {t r : Tally} (h : Balanced l s s1 t) (h' : Balanced l s1 s' r) :
    Balanced l s s' ⟨t.delivered + r.delivered, t.returned + r.returned⟩ := by
  simp only [Balanced] at *
  omega

theorem runTally_balanced {l : Line} {n : Nat} {s s' : State} {t : Tally} (hon : AllLinesOn s)
    (h : runTally l n s = some (s', t)) : Balanced l s s' t := by
  induction n generalizing s t with
  | zero =>
    cases h
    exact balanced_of_evq_eq rfl
  | succ n ih =>
    obtain ⟨s1, r, -, hstep, hrest, rfl⟩ := runTally_succ_eq_some.mp h
    obtain ⟨hon1, hfirst⟩ := step_allLinesOn hon hstep l
    exact hfirst.trans (ih hon1 hrest)

/-- A judged run of one step more that ends in a state takes a step from a live state, and its rest ends there. -/
theorem judgedRun_succ_next {n : Nat} {s s' : State} (h : judgedRun (n + 1) s = .next s') :
    ∃ s1, s.fault = none ∧ step s = .next s1 ∧ judgedRun n s1 = .next s' := by
  obtain ⟨hlive, hrun⟩ := whenLive_next h
  split at hrun
  · rename_i s1 hstep
    exact ⟨s1, hlive, hstep, hrun⟩
  · cases hrun
  · cases hrun

/-- A run that is no fault outcome has a tally. -/
theorem runTally_of_judgedRun {n : Nat} {s s' : State} (l : Line) (h : judgedRun n s = .next s') :
    ∃ t, runTally l n s = some (s', t) := by
  induction n generalizing s with
  | zero =>
    cases (whenLive_next h).2
    exact ⟨_, rfl⟩
  | succ n ih =>
    obtain ⟨s1, hlive, hstep, hrun⟩ := judgedRun_succ_next h
    obtain ⟨r, hrest⟩ := ih hrun
    exact ⟨_, runTally_succ_eq_some.mpr ⟨s1, r, hlive, hstep, hrest, rfl⟩⟩

/-- Settles O43, by induction on the run: every step keeps the balance. -/
theorem eventsReturnedAndQueuedEqualDeliveries : Obligations.EventsReturnedAndQueuedEqualDeliveries := by
  unfold Obligations.EventsReturnedAndQueuedEqualDeliveries
  intro n s s' l hcfg hactive hinputs
  exact ⟨fun r hr => runTally_balanced ⟨hcfg, hactive, hinputs⟩ hr, runTally_of_judgedRun l⟩

end Sys2Proof.Proofs

/-! PeriodicRate (43_periodic_rate.md R145 to R148): SETRATE and GETRATE by their ends, and the two truncations of a rate that
is written and read back. -/

namespace Sys2Proof.Proofs

open Sys2Proof.Machine

/-! ## The ends of SETRATE and GETRATE -/

section Ends

variable {s : State} (hlive : s.fault = none)

include hlive

theorem exec_setRate_outOfRange (hbad : s.bus.dIn = 0 ∨ 1024 < s.bus.dIn.toNat) :
    exec .setRate s = .next ((s.setFault .rateRange).respond (Response.faulted .rateRange)) :=
  (whenLive_live hlive _).trans (if_pos hbad)

theorem exec_getRate_unset (hunset : s.pticks = none) :
    exec .getRate s = .next ((s.setFault .rateUnset).respond (Response.faulted .rateUnset)) := by
  rw [exec, execGetRate, whenLive_live hlive, hunset]
  rfl

/-- GETRATE of a PTICKS that holds a value divides by it, and stops by name where the value is 0. -/
theorem exec_getRate_set {n : BitVec 16} (hset : s.pticks = some n) :
    exec .getRate s = if n = 0 then .fault .zeroDivisor else .next (s.respond (Response.scalar (tickDiv n))) := by
  rw [exec, execGetRate, whenLive_live hlive, hset]

theorem exec_getRate_done {n : BitVec 16} (hset : s.pticks = some n) (hpos : 1 ≤ n.toNat) :
    exec .getRate s = .next (s.respond (Response.scalar (tickDiv n))) := by
  have hne : n ≠ 0 := by
    rintro rfl
    exact absurd hpos (by decide)
  exact (exec_getRate_set hlive hset).trans (if_neg hne)

end Ends

/-- Settles O44: the range check decides between the fault and the divisor, which `tickDiv_legal` bounds. -/
theorem setRateStoresTruncatedDivisor : Obligations.SetRateStoresTruncatedDivisor := by
  unfold Obligations.SetRateStoresTruncatedDivisor
  refine ⟨rfl, fun s hlive => ⟨fun hbad => exec_setRate_outOfRange hlive hbad, fun hpos hle => ?_⟩⟩
  exact ⟨tickDiv s.bus.dIn, exec_setRate_done hlive hpos hle, tickDiv_toNat _, tickDiv_legal hpos hle⟩

/-- Settles O45: PTICKS decides between the fault and the rate, which `tickDiv_legal` bounds where PTICKS is legal. -/
theorem getRateReadsTruncatedRate : Obligations.GetRateReadsTruncatedRate := by
  unfold Obligations.GetRateReadsTruncatedRate
  refine ⟨rfl, fun s hlive hlegal => ⟨fun hunset => exec_getRate_unset hlive hunset, fun n hset => ?_⟩⟩
  obtain ⟨hpos, hle⟩ := hlegal n hset
  exact ⟨tickDiv n, exec_getRate_done hlive hset hpos, tickDiv_toNat n, tickDiv_legal hpos hle⟩

/-- Settles O46: GETRATE's test of the divisor stops it. -/
theorem getRateOfZeroDivisorStops : Obligations.GetRateOfZeroDivisorStops := by
  unfold Obligations.GetRateOfZeroDivisorStops
  intro s hlive hzero
  exact (exec_getRate_set hlive hzero).trans (if_pos rfl)

/-! ## The round trip -/

/-- A divisor of 1024 survives both truncations (R148). -/
theorem tickDiv_tickDiv_of_dvd {h : DBus} (hdvd : h.toNat ∣ 1024) : tickDiv (tickDiv h) = h := by
  apply BitVec.eq_of_toNat_eq
  rw [tickDiv_toNat, tickDiv_toNat]
  exact Nat.div_div_self hdvd (by decide)

/-- The rate read back is never below the rate that was set (R148). -/
theorem le_tickDiv_tickDiv {h : DBus} (hpos : 1 ≤ h.toNat) (hle : h.toNat ≤ 1024) :
    h.toNat ≤ (tickDiv (tickDiv h)).toNat := by
  rw [tickDiv_toNat (tickDiv h), Nat.le_div_iff_mul_le (tickDiv_legal hpos hle).1, tickDiv_toNat]
  exact Nat.mul_div_le 1024 h.toNat

/-- RATE_SET_GET of an accepted rate goes on to GETRATE, which divides by the divisor just stored (R71). -/
theorem rateSetGet_done {s : State} {h : DBus} (hlive : s.fault = none) (hpos : 1 ≤ h.toNat) (hle : h.toNat ≤ 1024) :
    rateSetGet h s =
      .next ((State.setPticks { s with bus := ⟨0, 0, 0⟩ } (tickDiv h)).respond (Response.scalar (tickDiv (tickDiv h)))) := by
  have hset : issue .setRate ⟨0, 0, h⟩ s =
      .next ((State.setPticks { s with bus := ⟨0, 0, h⟩ } (tickDiv h)).respond Response.done) :=
    exec_setRate_done (s := { s with bus := ⟨0, 0, h⟩ }) hlive hpos hle
  have hget := exec_getRate_done (s := State.setPticks { s with bus := ⟨0, 0, 0⟩ } (tickDiv h)) hlive rfl
    (tickDiv_legal hpos hle).1
  rw [rateSetGet, hset]
  exact (exec_respond .getRate _ Response.done).trans hget

/-- Settles O47: both commands complete, and what the first truncation loses is the remainder of 1024 by the rate. -/
theorem rateRoundTripTruncatesTwice : Obligations.RateRoundTripTruncatesTwice := by
  unfold Obligations.RateRoundTripTruncatesTwice
  intro s h hlive hpos hle
  refine ⟨_, tickDiv h, tickDiv (tickDiv h), rateSetGet_done hlive hpos hle, rfl, rfl, ?_, fun hrem => ?_, fun hrem => ?_⟩
  · rw [tickDiv_toNat, tickDiv_toNat]
  · have hdvd : h.toNat ∣ 1024 := Nat.dvd_of_mod_eq_zero hrem
    refine ⟨tickDiv_tickDiv_of_dvd hdvd, ?_⟩
    rw [tickDiv_toNat, Nat.mul_div_cancel' hdvd]
  · refine ⟨le_tickDiv_tickDiv hpos hle, ?_⟩
    rw [tickDiv_toNat]
    exact Nat.mul_div_lt_iff_not_dvd.mpr (mt Nat.mod_eq_zero_of_dvd hrem)

end Sys2Proof.Proofs

/-! Status codes and faults (60_exceptions.md): the word that is no command (R161), what enters a fault and what the entry
writes (R162, R163), the faulted block (R164, R180), and how a fault judges a run (R164). -/

namespace Sys2Proof.Proofs

open Sys2Proof.Machine Sys2Proof.Safety

/-! ## Status codes -/

theorem status_bits_mem (x : Status) :
    x.bits ∈ ([0x0, 0x1, 0x8, 0x9, 0xA, 0xB, 0xC] : List (BitVec 4)) := by
  cases x with
  | ok => decide
  | unsupported => decide
  | faulted c => cases c <;> decide

/-- Settles O48: the port holds the code of the response's STATUS. -/
theorem statusCodesAreAsListed : Obligations.StatusCodesAreAsListed := by
  unfold Obligations.StatusCodesAreAsListed
  refine ⟨rfl, rfl, rfl, rfl, rfl, rfl, rfl, fun s b hport => ?_⟩
  obtain ⟨r, -, rfl⟩ := Option.map_eq_some_iff.mp hport
  exact status_bits_mem r.status

/-! ## A word that is no command -/

/-- A command word that decodes is the encoder's word of its instruction, so one of the nine of R65. -/
theorem mem_opcodeMap_of_decode {w : CmdWord} {i : Instr} (h : decode (.command w) = .ok i) :
    w ∈ ([0x10, 0x11, 0x20, 0x21, 0x30, 0x31, 0x32, 0x40, 0x41] : List CmdWord) := by
  have hword : .command w = encode i := (decodeAndEncodeAgree (.command w) i).mp h
  cases i <;> cases hword <;> decide

/-- Settles O9: the command port is the sample's one agent, and its word decodes to no instruction. -/
theorem unrecognisedCommandAnswersUnsupported : Obligations.UnrecognisedCommandAnswersUnsupported := by
  unfold Obligations.UnrecognisedCommandAnswersUnsupported
  intro s p later hcfg hlive hin hrst hcmd hirq hword
  have hrest : pendingAgents (clearAgent p .cmd) = [] := pendingAgents_of_none rfl hirq
  rw [step_of_soleAgent hcfg hlive hin hrst (pendingAgents_of_command hcmd hirq) hrest]
  cases hdecode : decode (agentWord p .cmd) with
  | ok i => exact absurd (mem_opcodeMap_of_decode hdecode) hword
  | error e => exact runWord_of_decode_error hdecode _

/-! ## The fault entry -/

/-- Each cause of R162's table makes its instruction enter the fault. -/
theorem exec_enters_of_faultCause {c : FaultCode} {i : Instr} {s : State} (hlive : s.fault = none)
    (hcause : FaultCause c i s) : ∃ s', exec i s = .next s' ∧ s'.fault = some c := by
  cases c with
  | adjDomain =>
    obtain ⟨rfl | rfl, hinvalid⟩ := hcause
    · exact ⟨_, (exec_advance_live hlive).trans (adjust_of_not_validIn hinvalid), rfl⟩
    · exact ⟨_, (exec_retreat_live hlive).trans (adjust_of_not_validIn hinvalid), rfl⟩
  | adjRange =>
    obtain ⟨hvalid, ⟨rfl, hlast⟩ | ⟨rfl, hfirst⟩⟩ := hcause
    · exact ⟨_, (exec_advance_live hlive).trans (adjust_of_eq_edge hvalid hlast), rfl⟩
    · exact ⟨_, (exec_retreat_live hlive).trans (adjust_of_eq_edge hvalid hfirst), rfl⟩
  | rateRange =>
    obtain ⟨rfl, hbad⟩ := hcause
    exact ⟨_, exec_setRate_outOfRange hlive hbad, rfl⟩
  | rateUnset =>
    obtain ⟨rfl, hunset⟩ := hcause
    exact ⟨_, exec_getRate_unset hlive hunset, rfl⟩
  | evqOverflow =>
    obtain ⟨l, rfl, hactive, hnew, hfull⟩ := hcause
    exact ⟨_, (exec_deliveryOf_active hlive hactive).trans (enqueue_overflow hnew hfull), rfl⟩

/-- Settles O49: an instruction's end with FAULT = `c` has the cause of `c`, and every cause brings that end about. -/
theorem faultsHaveExactlyTheListedCauses : Obligations.FaultsHaveExactlyTheListedCauses := by
  unfold Obligations.FaultsHaveExactlyTheListedCauses
  intro s i c hlive
  refine ⟨?_, exec_enters_of_faultCause hlive⟩
  rintro ⟨s', h, hfault⟩
  obtain hsame | ⟨d, hcause, hd⟩ := effect_fault (exec_effect h)
  · simp [hsame, hlive] at hfault
  · obtain rfl : d = c := Option.some.inj (hd.symm.trans hfault)
    exact hcause

/-- The two ends of an instruction that enter a fault, a command's and a delivery's, write FAULT and the response (R163). -/
theorem effect_faultEntry {i : Instr} {c : FaultCode} {s s' : State} (h : Effect s i s') (hlive : s.fault = none)
    (hfault : s'.fault = some c) :
    s' = { s with fault := some c,
                  resp := if isDelivery i = true then none else some ⟨.faulted c, none, none, none⟩ } := by
  cases h with
  | commandFault hcommand =>
    cases hfault
    rw [hcommand]
    rfl
  | overflow =>
    cases hfault
    rw [isDelivery_deliveryOf]
    rfl
  | _ => cases hlive.symm.trans hfault

/-- Settles O50: an instruction runs in a live block only, and enters a fault by one of two ends. -/
theorem faultEntryIsPrecise : Obligations.FaultEntryIsPrecise := by
  unfold Obligations.FaultEntryIsPrecise
  intro s s' i c h hfault
  have hlive := exec_next_live h
  refine ⟨hlive, effect_faultEntry (exec_effect h) hlive hfault, ?_⟩
  rw [State.faultWire, hfault, Option.isSome_some]

/-! ## The faulted block -/

theorem exec_faulted {s : State} {c : FaultCode} (hfault : s.fault = some c) (i : Instr) :
    exec i s = .fault (.noStep c) := by
  cases i <;> exact whenLive_faulted hfault _

/-- Settles O51: every meaning asks for a live block, and the fetch of a faulted one is stuck. -/
theorem faultedBlockHasNoStep : Obligations.FaultedBlockHasNoStep := by
  unfold Obligations.FaultedBlockHasNoStep
  exact ⟨fun i _ _ hfault => exec_faulted hfault i, fun _ _ => step_stuck⟩

/-- Settles O52: what comes after the first sample with `rst` is what stays presented. -/
theorem faultedBlockLosesItsInputs : Obligations.FaultedBlockLosesItsInputs := by
  unfold Obligations.FaultedBlockLosesItsInputs
  intro s lost p later c hcfg hfault hin hlost hrst
  have hfetch : fetch s = .quiet (State.resetBlock { s with inputs := later }) := by
    rw [fetch_faulted hfault, fetchFaulted, hin, afterReset_append hlost hrst]
  rw [step_allowed hcfg, hfetch]
  rfl

/-! ## Runs -/

/-- A run of one step more that ends in a state takes a step of its machine, and its rest ends there. -/
theorem coreRun_succ_next {M : Host.Core} {n : Nat} {s t : M.State} :
    M.run (n + 1) s = .next t ↔ ∃ s1, M.step s = .next s1 ∧ M.run n s1 = .next t := by
  rw [Host.Core.run]
  cases M.step s <;> simp

/-- The fault of a run is the first on it, so it is found no later than at the faulted state that `k` steps lead to. -/
theorem judgedRun_fault_of_coreRun {k : Nat} {s t : State} {c : FaultCode} (hrun : Sys2Proof.core.run k s = .next t)
    (hfault : t.fault = some c) (m : Nat) : ∃ d, judgedRun (k + m) s = .fault (.noStep d) := by
  induction k generalizing s with
  | zero =>
    cases hrun
    exact ⟨c, judgedRun_faulted hfault _⟩
  | succ k ih =>
    cases hs : s.fault with
    | some d => exact ⟨d, judgedRun_faulted hs _⟩
    | none =>
      obtain ⟨s1, hstep, hrest⟩ := coreRun_succ_next.mp hrun
      rw [Nat.succ_add, judgedRun_succ hs hstep]
      exact ih hrest

/-- Settles O58: the run's judged outcome is a fault, and a fault outcome satisfies no claim. -/
theorem faultOnTheRunRefutesEveryClaim : Obligations.FaultOnTheRunRefutesEveryClaim := by
  unfold Obligations.FaultOnTheRunRefutesEveryClaim
  intro k m s t c hrun hfault
  obtain ⟨d, hjudged⟩ := judgedRun_fault_of_coreRun hrun hfault m
  exact ⟨not_runSatisfies_of_judgedRun_fault hjudged, d, hjudged⟩

/-- A run on which every state is safe is judged to end where it ends. -/
theorem judgedRun_eq_next_of_safe {n : Nat} {s t : State} (hrun : Sys2Proof.core.run n s = .next t)
    (hsafe : ∀ k u, k ≤ n → Sys2Proof.core.run k s = .next u → Safe u) : judgedRun n s = .next t := by
  have hlive : s.fault = none := hsafe 0 s (Nat.zero_le n) rfl
  induction n generalizing s with
  | zero =>
    cases hrun
    exact whenLive_live hlive _
  | succ n ih =>
    obtain ⟨s1, hstep, hrest⟩ := coreRun_succ_next.mp hrun
    have hsafe1 : ∀ k u, k ≤ n → Sys2Proof.core.run k s1 = .next u → Safe u := fun k u hk hu =>
      hsafe (k + 1) u (Nat.succ_le_succ hk) (coreRun_succ_next.mpr ⟨s1, hstep, hu⟩)
    rw [judgedRun_succ hlive hstep]
    exact ih hrest hsafe1 (hsafe1 0 s1 (Nat.zero_le n) rfl)

theorem runSatisfies_iff_of_judgedRun {n : Nat} {s t : State} (h : judgedRun n s = .next t) (P : State → Prop) :
    RunSatisfies n s P ↔ P t := by
  simp [RunSatisfies, h]

/-- Settles O59: the judged run ends in `t`. -/
theorem faultFreeRunSatisfiesWhatItsEndDoes : Obligations.FaultFreeRunSatisfiesWhatItsEndDoes := by
  unfold Obligations.FaultFreeRunSatisfiesWhatItsEndDoes
  intro n s t hrun hsafe
  exact runSatisfies_iff_of_judgedRun (judgedRun_eq_next_of_safe hrun hsafe)

end Sys2Proof.Proofs

/-! The reset (70_reset_and_hazards.md R180), in a live block and in a faulted one. -/

namespace Sys2Proof.Proofs

open Sys2Proof.Machine

/-- A first sample with `rst` resets the block, live or faulted, and nothing of that sample is left. -/
theorem fetch_of_rst {s : State} {p : InPorts} {later : List InPorts} (hin : s.inputs = p :: later)
    (hrst : p.rst = true) : fetch s = .quiet (State.resetBlock { s with inputs := later }) := by
  cases hfault : s.fault with
  | none => simp [fetch_live hfault, fetchLive, hin, hrst, hfault]
  | some c => simp [fetch_faulted hfault, fetchFaulted, hin, afterReset, hrst, hfault]

/-- In a faulted block no agent has a turn and nothing is quiet but a reset, so a step that answers a next state is the reset
of the first sample with `rst`. -/
theorem step_next_of_faulted {s s' : State} {c : FaultCode} (h : step s = .next s') (hfault : s.fault = some c) :
    ∃ lost p later, s.inputs = lost ++ p :: later ∧ (∀ q ∈ lost, q.rst = false) ∧ p.rst = true ∧
      s' = State.resetBlock { s with inputs := later } := by
  have hfaulted : s.fault ≠ none := by simp [hfault]
  obtain ⟨-, hquiet | ⟨w, s1, hturn, -⟩⟩ := step_next h
  · obtain ⟨lost, p, later, hin, hrst, hlost, -, rfl⟩ | ⟨hlive, -⟩ := fetch_quiet hquiet
    · exact ⟨lost, p, later, hin, hlost, hrst, rfl⟩
    · exact absurd hlive hfaulted
  · obtain ⟨hlive, -⟩ := fetch_turn hturn
    exact absurd hlive hfaulted

/-- Settles O10: the fetch of a first sample with `rst` is a reset, and a faulted block's step answers by a reset alone. -/
theorem rstPutsResetValues : Obligations.RstPutsResetValues := by
  unfold Obligations.RstPutsResetValues
  refine ⟨fun s p later hcfg hin hrst => ?_, fun _ _ _ => step_next_of_faulted⟩
  rw [step_allowed hcfg, fetch_of_rst hin hrst]
  rfl

end Sys2Proof.Proofs
